-- ==== Sys2Proof/Word.lean ====
section
/-! DEFINITION. The word types: a register, command word or 32-bit memory element (00_scope.md R12),
a 16-bit sample (20_memory.md R46) and a byte. -/

namespace Sys2Proof

/-- A register, a command word, or a 32-bit element (R12). -/
abbrev Word := BitVec 32

/-- A 16-bit sample (R46). -/
abbrev Half := BitVec 16

/-- The smallest addressable unit of system memory (R43). -/
abbrev Byte := BitVec 8

end Sys2Proof
end

