-- ==== Sys2Proof/Config.lean ====
section
/-! DEFINITION. What an implementation fixes (00_scope.md R11) and the free values: what the spec leaves
unspecified. A free value has no body, so nothing can be proved of it but what holds for every value. -/

namespace Sys2Proof

/-- The implementation parameters of R11 that a rule depends on. P_LATENCY and P_BUS_PROTOCOL are not here:
no rule depends on them (R146, U17). -/
structure Config where
  /-- P_STEREO_CTX, 1 to 16. -/
  stereoCtx : Nat
  /-- P_MONO_CTX, 1 to 16. -/
  monoCtx : Nat
  /-- P_FLOAT_LAYOUT_OPS: whether ILV and DILV exist. -/
  layoutOps : Bool
  /-- P_REG_BASE without its low 12 bits: the base is a multiple of 4 KiB (R11, R17). -/
  regPage : BitVec 20
deriving DecidableEq, Repr

/-- The ranges of R11. -/
def Config.valid (c : Config) : Bool :=
  decide (1 ≤ c.stereoCtx) && decide (c.stereoCtx ≤ 16) && decide (1 ≤ c.monoCtx) && decide (c.monoCtx ≤ 16)

/-- The reference values of R11. P_REG_BASE has none: DESIGN CHOICE 0 (log entry 3). -/
def Config.reference : Config :=
  { stereoCtx := 1, monoCtx := 1, layoutOps := true, regPage := 0 }

/-- Free bytes: what an "out" region holds where the spec leaves it unspecified (R57, R129, R140, R148), and what
the host reads where its read is unordered (R59, R60). The argument is `State.draws` (log entries 9, 10, 12, 15). -/
opaque Config.freeByte : Nat → Byte

/-- Free words: what PEAK_* holds where the spec leaves it unspecified (R57, R148; log entry 17). -/
opaque Config.freeWord : Nat → Word

/-- A free choice: which of several failing element accesses an abort records (R122, U13; log entry 8). -/
opaque Config.freeChoice : Nat → Nat

end Sys2Proof
end

