-- ==== Sys2Proof/Syntax.lean ====
section
/-! DEFINITION. The commands of 30_encoding.md R69, one constructor per row of opcode_table.json. A command word carries
no operand but CTX and FX (R71); every other operand stands in the argument registers. -/

namespace Sys2Proof

inductive Instr where
  /-- SINIT, R98. -/
  | sinit (ctx : BitVec 4)
  /-- SMIX, R99 to R102. -/
  | smix (ctx : BitVec 4) (fx : Bool)
  /-- MINIT, R106. -/
  | minit (ctx : BitVec 4)
  /-- MMIX, R107 to R109. -/
  | mmix (ctx : BitVec 4) (fx : Bool)
  /-- FXENC, R111. -/
  | fxenc
  /-- FXDEC, R112. -/
  | fxdec
  /-- F2S16, R115. -/
  | f2s16
  /-- P2S16, R116. -/
  | p2s16
  /-- S162F, R117. -/
  | s162f
  /-- ILV, R118. -/
  | ilv
  /-- DILV, R119. -/
  | dilv
deriving DecidableEq, Repr

end Sys2Proof
end

