-- ==== Sys2Proof/WellFormed.lean ====
section
/-! DEFINITION. Which commands a configuration has: the static check of 93_implementation_defined.md U2 on a host program.
The machine runs no command on the strength of it: a command outside it is rejected at run time (R123). -/

namespace Sys2Proof

/-- The command exists in the configuration (R74) and its context is configured (R70, R121). -/
def Instr.wellFormed (cfg : Config) : Instr → Bool
  | .sinit ctx => decide (ctx.toNat < cfg.stereoCtx)
  | .smix ctx _ => decide (ctx.toNat < cfg.stereoCtx)
  | .minit ctx => decide (ctx.toNat < cfg.monoCtx)
  | .mmix ctx _ => decide (ctx.toNat < cfg.monoCtx)
  | .fxenc => true
  | .fxdec => true
  | .f2s16 => true
  | .p2s16 => true
  | .s162f => true
  | .ilv => cfg.layoutOps
  | .dilv => cfg.layoutOps

end Sys2Proof
end

