-- ==== Sys2Proof/Decode.lean ====
section
/-! DEFINITION. The decoder and the encoder of command words (30_encoding.md R67 to R74). Every command is one 32-bit
word; there is no other length and no mode that changes decoding. -/

namespace Sys2Proof

/-- One row of R70: a word selects the row when `word &&& mask = pattern`. -/
structure OpcodeRow where
  pattern : Word
  mask : Word
  build : Word → Instr

/-- Field CTX, bits 15:12 (R68). -/
def ctxField (w : Word) : BitVec 4 := w.extractLsb' 12 4

/-- Field FX, bit 8 (R68). -/
def fxField (w : Word) : Bool := w.getLsbD 8

/-- The match and mask table of R70. -/
def opcodeRows : List OpcodeRow :=
  [ { pattern := 0x00000001, mask := 0xFFFF0FFF, build := fun w => .sinit (ctxField w) },
    { pattern := 0x00000002, mask := 0xFFFF0EFF, build := fun w => .smix (ctxField w) (fxField w) },
    { pattern := 0x00000003, mask := 0xFFFF0FFF, build := fun w => .minit (ctxField w) },
    { pattern := 0x00000004, mask := 0xFFFF0EFF, build := fun w => .mmix (ctxField w) (fxField w) },
    { pattern := 0x00000010, mask := 0xFFFFFFFF, build := fun _ => .fxenc },
    { pattern := 0x00000011, mask := 0xFFFFFFFF, build := fun _ => .fxdec },
    { pattern := 0x00000020, mask := 0xFFFFFFFF, build := fun _ => .f2s16 },
    { pattern := 0x00000021, mask := 0xFFFFFFFF, build := fun _ => .p2s16 },
    { pattern := 0x00000022, mask := 0xFFFFFFFF, build := fun _ => .s162f },
    { pattern := 0x00000023, mask := 0xFFFFFFFF, build := fun _ => .ilv },
    { pattern := 0x00000024, mask := 0xFFFFFFFF, build := fun _ => .dilv } ]

/-- The row a word selects (R70). -/
def OpcodeRow.selects (r : OpcodeRow) (w : Word) : Bool := w &&& r.mask == r.pattern

/-- The command a word encodes, or none for an illegal word (R73). ILV and DILV decode in every configuration;
whether they are present (R74) is checked by their meanings (log entry 26). -/
def decode (w : Word) : Option Instr :=
  match opcodeRows.find? (fun r => r.selects w) with
  | some r => some (r.build w)
  | none => none

/-- The bit pattern of R68, bit 31 on the left: RSV1, CTX, RSV0, FX, OPC. -/
def commandWord (ctx : BitVec 4) (fx : Bool) (opc : BitVec 8) : Word :=
  0#16 ++ ctx ++ 0#3 ++ BitVec.ofBool fx ++ opc

/-- The word of a command (R68, R69). -/
def encode : Instr → Word
  | .sinit ctx => commandWord ctx false 0x01
  | .smix ctx fx => commandWord ctx fx 0x02
  | .minit ctx => commandWord ctx false 0x03
  | .mmix ctx fx => commandWord ctx fx 0x04
  | .fxenc => commandWord 0 false 0x10
  | .fxdec => commandWord 0 false 0x11
  | .f2s16 => commandWord 0 false 0x20
  | .p2s16 => commandWord 0 false 0x21
  | .s162f => commandWord 0 false 0x22
  | .ilv => commandWord 0 false 0x23
  | .dilv => commandWord 0 false 0x24

/-- The command the decoder reads from a word given as a number of `nbits` bits, bit 0 the least significant bit
of the one word a command has. -/
def decodeTableWord (nbits w : Nat) : Option Instr :=
  if nbits ≤ 32 ∧ w < 2 ^ 32 then decode (BitVec.ofNat 32 w) else none

end Sys2Proof
end

