-- ==== Sys2Proof/Machine/Float.lean ====
section
/-! DEFINITION. IEEE 754 binary32 arithmetic (40_datapath.md R79 to R81): exact results rounded once to nearest, ties to even,
with one canonical NaN. A finite value is held as its sign and its magnitude in units of 2^-149, the least subnormal, so that
every finite binary32 value is an integer and every result is exact before it is rounded. -/

namespace Sys2Proof.Machine

/-- The value of a binary32 encoding (R79). `mag` counts units of 2^-149. -/
inductive FVal where
  | nan
  | inf (neg : Bool)
  | fin (neg : Bool) (mag : Nat)
deriving DecidableEq, Repr

/-- Bits 30:23 (R79). -/
def expField (b : Word) : Nat := b.toNat / 2 ^ 23 % 2 ^ 8

/-- Bits 22:0 (R79). -/
def fracField (b : Word) : Nat := b.toNat % 2 ^ 23

/-- `f32(b)` of R13: the value an encoding stands for (R79). -/
def f32 (b : Word) : FVal :=
  if expField b = 255 then
    if fracField b = 0 then .inf b.msb else .nan
  else if expField b = 0 then .fin b.msb (fracField b)
  else .fin b.msb ((2 ^ 23 + fracField b) * 2 ^ (expField b - 1))

/-- The canonical NaN (R81). -/
def canonNaN : Word := 0x7FC00000

/-- `rne(num / den)` of R13: the nearest integer, ties to the even one. -/
def rneDiv (num den : Nat) : Nat :=
  let q := num / den
  let r := num % den
  if 2 * r < den then q
  else if den < 2 * r then q + 1
  else q + q % 2

/-- Bits 30:0 of the encoding of `num / den` units of 2^-149, rounded once to nearest even; from the overflow
threshold on, those of infinity (R80). `k` is the weight of the last kept bit, 0 for a subnormal result. -/
def roundMag (num den : Nat) : Nat :=
  let k := Nat.log2 (num / den) - 23
  min (k * 2 ^ 23 + rneDiv num (den * 2 ^ k)) 0x7F800000

/-- An encoding from its sign and its bits 30:0. -/
def pack (neg : Bool) (bits : Nat) : Word :=
  BitVec.ofNat 32 (bits + if neg then 2 ^ 31 else 0)

/-- Infinity of either sign. -/
def infinity (neg : Bool) : Word := pack neg 0x7F800000

/-- A sign and a magnitude as an integer. -/
def signed (neg : Bool) (mag : Nat) : Int := if neg then -(mag : Int) else mag

/-- Whether an encoding is a NaN (R79). -/
def isNaN (b : Word) : Bool := f32 b == .nan

/-- `b32` of R13 on a pattern: every NaN is the canonical one (R81). -/
def b32 (b : Word) : Word := if isNaN b then canonNaN else b

/-- `-b`: the sign bit flipped. -/
def fneg (b : Word) : Word := b ^^^ 0x80000000

/-- `fabs` of R13: the sign bit cleared. -/
def fabs (b : Word) : Word := b &&& 0x7FFFFFFF

/-- `fadd` (R80). An exact zero sum is +0 unless both operands are -0 (R80 and IEEE 754; log entry 23). -/
def fadd (a b : Word) : Word :=
  match f32 a, f32 b with
  | .nan, _ => canonNaN
  | .inf _, .nan => canonNaN
  | .fin _ _, .nan => canonNaN
  | .inf s, .inf t => if s = t then infinity s else canonNaN
  | .inf s, .fin _ _ => infinity s
  | .fin _ _, .inf t => infinity t
  | .fin s x, .fin t y =>
    let z := signed s x + signed t y
    if z = 0 then pack (s && t) 0 else pack (decide (z < 0)) (roundMag z.natAbs 1)

/-- `fsub` (R80). -/
def fsub (a b : Word) : Word := fadd a (fneg b)

/-- `fmul` (R80). -/
def fmul (a b : Word) : Word :=
  match f32 a, f32 b with
  | .nan, _ => canonNaN
  | .inf _, .nan => canonNaN
  | .fin _ _, .nan => canonNaN
  | .inf s, .inf t => infinity (s != t)
  | .inf s, .fin t y => if y = 0 then canonNaN else infinity (s != t)
  | .fin s x, .inf t => if x = 0 then canonNaN else infinity (s != t)
  | .fin s x, .fin t y => pack (s != t) (roundMag (x * y) (2 ^ 149))

/-- `fdiv` (R80). The quotients with a zero or infinite operand that R80 does not list are IEEE 754's (log entry 23);
the block divides only by n - 1 ≥ 1 (R83). -/
def fdiv (a b : Word) : Word :=
  match f32 a, f32 b with
  | .nan, _ => canonNaN
  | .inf _, .nan => canonNaN
  | .fin _ _, .nan => canonNaN
  | .inf _, .inf _ => canonNaN
  | .inf s, .fin t _ => infinity (s != t)
  | .fin s _, .inf t => pack (s != t) 0
  | .fin s x, .fin t y =>
    if y = 0 then (if x = 0 then canonNaN else infinity (s != t))
    else pack (s != t) (roundMag (x * 2 ^ 149) y)

/-- A non-NaN value on a line: infinities stand beyond every finite magnitude. -/
def lineOf : FVal → Option Int
  | .nan => none
  | .inf s => some (signed s (2 ^ 300))
  | .fin s m => some (signed s m)

/-- `fgt` of R13: the ordered comparison a > b, false if either is a NaN. -/
def fgt (a b : Word) : Bool :=
  match lineOf (f32 a), lineOf (f32 b) with
  | some x, some y => decide (y < x)
  | some _, none => false
  | none, _ => false

/-- `i2f` of R13: the binary32 value nearest the integer k. -/
def i2f (k : Nat) : Word := pack false (roundMag (k * 2 ^ 149) 1)

/-- An integer kept within the signed range of `w` bits: no wrap-around (R90, R93, R96). -/
def saturate (w : Nat) (r : Int) : BitVec w :=
  if r > 2 ^ (w - 1) - 1 then BitVec.ofInt w (2 ^ (w - 1) - 1)
  else if r < -2 ^ (w - 1) then BitVec.ofInt w (-2 ^ (w - 1))
  else BitVec.ofInt w r

/-- `rne(f * 2^frac)` saturated to `w` bits; a NaN gives 0 (R90, R93). -/
def toFixed (w frac : Nat) (b : Word) : BitVec w :=
  match f32 b with
  | .nan => 0
  | .inf neg => saturate w (signed neg (2 ^ w))
  | .fin neg mag => saturate w (signed neg (rneDiv (mag * 2 ^ frac) (2 ^ 149)))

/-- The binary32 value nearest `q / 2^frac` for a two's complement q (R91, R94). -/
def fromFixed (w frac : Nat) (q : BitVec w) : Word :=
  pack (decide (q.toInt < 0)) (roundMag (q.toInt.natAbs * 2 ^ 149) (2 ^ frac))

end Sys2Proof.Machine
end

