-- ==== Sys2Proof/Machine/Datapath.lean ====
section
/-! DEFINITION. The datapath functions of 40_datapath.md: gain validity, the gain smoothing interpolator, the accumulator, the
peak detector, and the 8.24 and 16-bit conversions. -/

namespace Sys2Proof.Machine

/-- `ValidGain` (R82). -/
def validGain (b : Word) : Bool := !b.msb && decide (expField b ≠ 255)

/-- `Ramp(prev, tgt, n, i)` (R83). -/
def ramp (prev tgt : Word) (n i : Nat) : Word :=
  if i + 1 = n then tgt
  else
    let d := fsub tgt prev
    let step := fdiv d (i2f (n - 1))
    let g := fadd prev (fmul step (i2f i))
    if fgt 0 g then 0 else g

/-- The contributions of one output side summed from +0.0 in slot order; a null slot is skipped (R86). -/
def accumulate (ys : List (Option Word)) : Word :=
  ys.foldl (fun acc y => match y with
    | some y => fadd acc y
    | none => acc) 0

/-- `PeakUpd(m, y)` (R88). -/
def peakUpd (m y : Word) : Word := if fgt (fabs y) m then fabs y else m

/-- The meter of a slot that may be null: a null slot leaves it (R89). -/
def peakOf (m : Word) : Option Word → Word
  | some y => peakUpd m y
  | none => m

/-- `FxEnc` (R90). -/
def fxEnc (f : Word) : Word := toFixed 32 24 f

/-- `FxDec` (R91). -/
def fxDec (q : Word) : Word := fromFixed 32 24 q

/-- `S16Enc` (R93). -/
def s16Enc (f : Word) : Half := toFixed 16 15 f

/-- `S16Dec` (R94). -/
def s16Dec (h : Half) : Word := fromFixed 16 15 h

/-- What a mixer writes for an output value: 8.24 when FX is set, else the float (R100, R108). -/
def outWord (fx : Bool) (o : Word) : Word := if fx then fxEnc o else b32 o

end Sys2Proof.Machine
end

