-- ==== Sys2Proof/Machine/State.lean ====
section
/-! DEFINITION. The state of the block (10_state.md), the system memory beside it, the pending inputs of its host, and the
machine right after reset. Every field is plain data. -/

namespace Sys2Proof.Machine

/-- System memory, 2^32 bytes (R43): address and byte pairs in rising order of address, none equal to what an unlisted
address reads as. -/
abbrev Memory := List Host.Cell

/-- Error codes of R121. The reserved codes 9 to 15 are never reported (U3). -/
inductive ErrCode where
  | none | badOp | ctx | count | gain | null | align | range | bus
deriving DecidableEq, Repr

/-- The argument registers (R29, R31 to R35). -/
structure Args where
  count : Word
  inp : Vector Word 4
  out : Vector Word 2
  imtr : Word
  omtr : Word
  gin : Vector Word 8
  gout : Vector Word 2
deriving DecidableEq, Repr

/-- One stereo smoothing context SS[c] (R37). -/
structure StereoCtx where
  inp : Vector Word 8
  out : Vector Word 2
deriving DecidableEq, Repr

/-- One mono smoothing context MS[c] (R38). -/
structure MonoCtx where
  inp : Vector Word 4
  out : Word
deriving DecidableEq, Repr

/-- What the platform's memory has in store for a running command, settled at acceptance (log entry 8). -/
inductive Fate where
  /-- Every element access is answered. -/
  | completes
  /-- An element access gets an error response: the address an abort records (R54, R129, R122). -/
  | busError (addr : Word)
  /-- An element access is never answered: the engine has no enabled step (U10). -/
  | noResponse
  /-- Margin bytes are not admitted memory: the command never starts (R56, U8). -/
  | noMargin
deriving DecidableEq, Repr

/-- The hidden state of a RUNNING engine (R40), and the model's own two fields `fate` and `dirty`. -/
structure Run where
  /-- The decoded command. -/
  instr : Instr
  /-- The frame index i. -/
  frame : Nat
  /-- The per-frame accumulators (R86), left and right; MMIX uses the first. -/
  acc : Vector Word 2
  /-- The running maxima of the input sides (R88). -/
  maxIn : Vector Word 8
  /-- The running maxima of the output sides (R88). -/
  maxOut : Vector Word 2
  fate : Fate
  /-- A host duty was broken for this command: its "out" regions and PEAK_* end unspecified (R57, R148). -/
  dirty : Bool
deriving DecidableEq, Repr

/-- The size of a host access. -/
inductive AccessSize where
  | byte | half | word | double
deriving DecidableEq, Repr

/-- A pending input from outside the block, and whose move it is (log entry 1). -/
inductive Event where
  /-- A host read at a host address, in the register window or outside it (R17, R18). -/
  | read (addr : Word) (size : AccessSize)
  /-- A host write at a host address (R17, R18). -/
  | write (addr : Word) (size : AccessSize) (value : Word)
  /-- A host load of one byte of system memory (R8). -/
  | load (addr : Word)
  /-- A host store of one byte of system memory (R8). -/
  | store (addr : Word) (value : Byte)
  /-- The reset input is asserted and released (R140). -/
  | reset
  /-- The engine moves before the next host access. -/
  | engine
deriving DecidableEq, Repr

/-- What the last host access got back. -/
inductive Reply where
  /-- Nothing: no access yet, or the address is not the block's. -/
  | none
  /-- A write was taken, or ignored without an error (R19 to R21). -/
  | ok
  | data (value : Word)
  | byte (value : Byte)
  /-- The error response of R18. -/
  | error
deriving DecidableEq, Repr

/-- Bytes base to base + size - 1 of system memory. -/
structure Span where
  base : Nat
  size : Nat
deriving DecidableEq, Repr

/-- How an area of system memory that is not ordinary memory answers the engine (R53, R54, U8 to U10). -/
inductive AreaKind where
  /-- No memory: reads and writes get an error response. -/
  | absent
  /-- Writes get an error response. -/
  | readOnly
  /-- Reads get an error response. -/
  | writeOnly
  /-- No memory, and no response at all. -/
  | silent
  /-- Side-effecting addresses (R53). -/
  | device
deriving DecidableEq, Repr

structure Area where
  span : Span
  kind : AreaKind
deriving DecidableEq, Repr

/-- The model faults of 93_implementation_defined.md part 1: what has happened that makes a claim's premise fail. -/
inductive Breach where
  /-- A command was rejected (U1, U2). -/
  | rejected
  /-- A register access was not a 32-bit aligned access (U5). -/
  | badAccess
  /-- A non-exact overlap (U6). -/
  | overlap
  /-- The host touched a region of the running command (U7). -/
  | hostTouch
  /-- Margins are not admitted memory (U8). -/
  | noMargin
  /-- A region maps side-effecting addresses (U9). -/
  | device
  /-- A region's element access failed (U10, U11). -/
  | busError
  /-- A region's element access is never answered (U10). -/
  | noResponse
deriving DecidableEq, Repr

/-- Why the machine stops. Both are stuck states of the engine, met only when no input is pending; the host could
still end them by a reset (R141). -/
inductive Fault where
  /-- Raised by `step` when the running command's margins are not admitted memory (R56, U8). Safe: the model stops
  where hardware, which does not check the margins, may go on. -/
  | engineNoMargin
  /-- Raised by `step` when an access of the running command is never answered (U10). Safe: the engine waits for
  ever. -/
  | engineNoResponse
deriving DecidableEq, Repr

/-- Why an instruction has no meaning. -/
inductive Refusal where
  /-- Raised by an arm of `exec` that has no meaning yet; no arm does. Safe. -/
  | notModelled (mnemonic : String)
deriving DecidableEq, Repr

/-- The state of the machine. INVENTORY.md lists every field with its rule. -/
structure State where
  /-- The implementation parameters (R11); no step changes them. -/
  cfg : Config
  /-- CTRL.IRQ_EN (R26). -/
  irqEn : Bool
  /-- STATUS.DONE (R27). -/
  done : Bool
  /-- STATUS.ERR (R27). -/
  err : Bool
  /-- STATUS.WIGN (R27). -/
  wign : Bool
  /-- STATUS.ERRCODE (R27, R121). -/
  errCode : ErrCode
  /-- ERRADDR (R30). -/
  errAddr : Word
  /-- The argument registers (R29, R31 to R35). -/
  args : Args
  /-- PEAK_IN0 to PEAK_IN7 (R36). -/
  peakIn : Vector Word 8
  /-- PEAK_OUT0, PEAK_OUT1 (R36). -/
  peakOut : Vector Word 2
  /-- The stereo smoothing contexts (R37); those at or above P_STEREO_CTX are never reached (log entry 18). -/
  ss : Vector StereoCtx 16
  /-- The mono smoothing contexts (R38); those at or above P_MONO_CTX are never reached (log entry 18). -/
  ms : Vector MonoCtx 16
  /-- The engine: none is IDLE, some is RUNNING (R40). STATUS.BUSY is computed from it. -/
  run : Option Run
  /-- System memory (R43). -/
  mem : Memory
  /-- The areas of system memory that are not ordinary memory; no step changes them. -/
  platform : List Area
  /-- What the engine wrote and the host has not yet acquired (R59, U21). -/
  unseen : List Span
  /-- The pending inputs, oldest first. -/
  events : List Event
  /-- What the last host access got back. -/
  reply : Reply
  /-- How many free values were drawn. -/
  draws : Nat
  /-- The sticky record of model faults, each at most once. -/
  breaches : List Breach
deriving DecidableEq, Repr

/-- The binary32 encoding of 1.0, the initial smoothing gain (R37, R38, R98, R106). -/
def gainOne : Word := 0x3F800000

/-- Every argument register at its reset value (R42). -/
def Args.reset : Args :=
  { count := 0, inp := Vector.replicate 4 0, out := Vector.replicate 2 0, imtr := 0, omtr := 0,
    gin := Vector.replicate 8 0, gout := Vector.replicate 2 0 }

/-- A stereo context at reset and after SINIT (R37, R98). -/
def StereoCtx.init : StereoCtx :=
  { inp := Vector.replicate 8 gainOne, out := Vector.replicate 2 gainOne }

/-- A mono context at reset and after MINIT (R38, R106). -/
def MonoCtx.init : MonoCtx :=
  { inp := Vector.replicate 4 gainOne, out := gainOne }

/-- The machine right after reset (R42, R142), in the reference configuration (R11), with no input pending. -/
def State.reset : State :=
  { cfg := Config.reference
    irqEn := false
    done := false
    err := false
    wign := false
    errCode := .none
    errAddr := 0
    args := Args.reset
    peakIn := Vector.replicate 8 0
    peakOut := Vector.replicate 2 0
    ss := Vector.replicate 16 StereoCtx.init
    ms := Vector.replicate 16 MonoCtx.init
    run := none
    mem := []
    platform := []
    unseen := []
    events := []
    reply := .none
    draws := 0
    breaches := [] }

end Sys2Proof.Machine
end

