-- ==== Sys2Proof/Machine/Ops.lean ====
section
/-! DEFINITION. The named operations over memory and the block's state: bytes and elements of system memory, contexts, the
error record, the free values, and raising an error (one shared operation) with the clearing of its record beside it. -/

namespace Sys2Proof.Machine

/-- What an unlisted byte of system memory reads as. The block does not reset memory and the spec gives it no
contents (R42): DESIGN CHOICE 0x00 (log entry 5). -/
def unlisted : Byte := 0

/-- The byte at an address. -/
def Memory.readByte : Memory → Nat → Byte
  | [], _ => unlisted
  | (a, v) :: m, b => if a = b then v else Memory.readByte m b

/-- Memory with no entry for an address. -/
def Memory.erase : Memory → Nat → Memory
  | [], _ => []
  | (a, v) :: m, b => if a = b then Memory.erase m b else (a, v) :: Memory.erase m b

/-- An entry put before the first one with a larger address. -/
def Memory.insert : Memory → Nat → Byte → Memory
  | [], b, v => [(b, v)]
  | (a, w) :: m, b, v => if b < a then (b, v) :: (a, w) :: m else (a, w) :: Memory.insert m b v

/-- Memory after a byte is written: the entry is renewed, or removed when the byte is what an unlisted one reads. -/
def Memory.writeByte (m : Memory) (a : Nat) (v : Byte) : Memory :=
  if v = unlisted then Memory.erase m a else Memory.insert (Memory.erase m a) a v

/-- Every address is above `lo`, the addresses rise, and no entry says what an unlisted byte would. -/
def Memory.wfFrom : Nat → Memory → Bool
  | _, [] => true
  | lo, (a, v) :: m => decide (lo ≤ a) && decide (v ≠ unlisted) && Memory.wfFrom (a + 1) m

/-- The canonical form of memory. -/
def Memory.wf (m : Memory) : Bool := Memory.wfFrom 0 m

/-- Every listed address is a 32-bit address (R43). -/
def Memory.inSpace (m : Memory) : Bool := m.all (fun c => decide (c.1 < 2 ^ 32))

/-- `MemRead(addr, 2)`, little-endian (R13, R47). -/
def Memory.readHalf (m : Memory) (a : Nat) : Half :=
  m.readByte (a + 1) ++ m.readByte a

/-- `MemRead(addr, 4)`, little-endian (R13, R47). -/
def Memory.readWord (m : Memory) (a : Nat) : Word :=
  m.readByte (a + 3) ++ m.readByte (a + 2) ++ m.readByte (a + 1) ++ m.readByte a

/-- `MemWrite(addr, 2, v)`, the least significant byte at addr (R13, R47). -/
def Memory.writeHalf (m : Memory) (a : Nat) (v : Half) : Memory :=
  (m.writeByte a (v.extractLsb' 0 8)).writeByte (a + 1) (v.extractLsb' 8 8)

/-- `MemWrite(addr, 4, v)`, the least significant byte at addr (R13, R47). -/
def Memory.writeWord (m : Memory) (a : Nat) (v : Word) : Memory :=
  (((m.writeByte a (v.extractLsb' 0 8)).writeByte (a + 1) (v.extractLsb' 8 8)).writeByte (a + 2)
    (v.extractLsb' 16 8)).writeByte (a + 3) (v.extractLsb' 24 8)

/-- `size` bytes from `base` become free bytes, the k-th one `Config.freeByte (draw + k)`. -/
def Memory.scramble (m : Memory) (base draw : Nat) : Nat → Memory
  | 0 => m
  | k + 1 => (Memory.scramble m base draw k).writeByte (base + k) (Config.freeByte (draw + k))

/-- The address of element j of a buffer with pointer p and element size `size`, with no wrap-around (R96, R151). -/
def elemAddr (p : Word) (size j : Nat) : Nat := p.toNat + size * j

/-- Whether a byte lies in a span. -/
def Span.has (sp : Span) (a : Nat) : Bool := decide (sp.base ≤ a) && decide (a < sp.base + sp.size)

/-- Whether two spans share a byte (R57). -/
def Span.meets (x y : Span) : Bool :=
  decide (max x.base y.base < min (x.base + x.size) (y.base + y.size))

/-- STATUS.BUSY: the engine is RUNNING (R27, R40). -/
def State.busy (s : State) : Bool := s.run.isSome

/-- SS[c] of a CTX field (R37). -/
def State.stereo (s : State) (c : BitVec 4) : StereoCtx := s.ss[c.toNat]'(c.isLt)

/-- SS[c] written. -/
def State.setStereo (s : State) (c : BitVec 4) (x : StereoCtx) : State :=
  { s with ss := s.ss.set c.toNat x c.isLt }

/-- MS[c] of a CTX field (R38). -/
def State.mono (s : State) (c : BitVec 4) : MonoCtx := s.ms[c.toNat]'(c.isLt)

/-- MS[c] written. -/
def State.setMono (s : State) (c : BitVec 4) (x : MonoCtx) : State :=
  { s with ms := s.ms.set c.toNat x c.isLt }

/-- A breach entered in the record if a condition holds, once (log entry 16). -/
def State.noteIf (s : State) (cond : Bool) (b : Breach) : State :=
  { s with breaches := if cond && !s.breaches.contains b then s.breaches ++ [b] else s.breaches }

/-- RAISING AN ERROR, by rejection (R125) or abort (R129): the record of R121 and R122 is written and nothing else
of the block changes. There is no vector and nothing is saved but the record (R120). -/
def State.raiseError (s : State) (code : ErrCode) (addr : Word) : State :=
  { s with done := true, err := true, errCode := code, errAddr := addr }

/-- The error record cleared: what an accepted CMD write does with it (R28); there is nothing to return from (R130). -/
def State.clearError (s : State) : State :=
  { s with err := false, errCode := .none, errAddr := 0 }

/-- `STATUS.BUSY <- 0; STATUS.DONE <- 1`: a command ends without error (R126, R128). -/
def State.endCommand (s : State) : State :=
  { s with run := none, done := true }

/-- A span of memory made free (R57, R129, R140; log entries 9, 10). -/
def State.freeSpan (s : State) (sp : Span) : State :=
  { s with mem := s.mem.scramble sp.base s.draws sp.size, draws := s.draws + sp.size }

/-- PEAK_* made free (R57, R148; log entry 17). -/
def State.freePeaks (s : State) : State :=
  { s with
    peakIn := Vector.ofFn (fun j : Fin 8 => Config.freeWord (s.draws + j.val))
    peakOut := Vector.ofFn (fun j : Fin 2 => Config.freeWord (s.draws + 8 + j.val))
    draws := s.draws + 10 }

end Sys2Proof.Machine
end

