-- ==== Sys2Proof/Machine/Operands.lean ====
section
/-! DEFINITION. The operands of each command: the regions it reads and writes (20_memory.md R50, R56; 30_encoding.md R72), the checks
made of them in order (60_exceptions.md R121 to R123), what their memory has in store (R54, R57), and the acceptance
of a command (R125 to R127). -/

namespace Sys2Proof.Machine

/-- One row of R50: a pointer register and the buffer it names. -/
structure Region where
  /-- The offset of the pointer register (R23), for ERR_NULL (R122). -/
  reg : Word
  ptr : Word
  /-- The element size, 4 or 2 bytes (R46). -/
  elem : Nat
  /-- How many elements. -/
  count : Nat
  /-- How many of them each frame has; 0 for a meter array, which belongs to no frame (R101). -/
  perFrame : Nat
  /-- Whether the engine writes it ("out") or reads it ("in"). -/
  out : Bool
  required : Bool
  /-- Elements of margin the host owes behind it (R56). -/
  margin : Nat
deriving DecidableEq, Repr

/-- The command's n: COUNT as an unsigned number, with no truncation (R29, R71). -/
def Args.n (a : Args) : Nat := a.count.toNat

/-- Split output: OUT1 is not 0 (R32, R100). -/
def Args.split (a : Args) : Bool := a.out[1] != 0

/-- The pointer register INk as an "in" region of n frames. -/
def srcRegion (a : Args) (k : Fin 4) (elem perFrame : Nat) (required : Bool) (margin : Nat) : Region :=
  { reg := BitVec.ofNat 32 (0x020 + 4 * k.val), ptr := a.inp[k], elem := elem, count := perFrame * a.n,
    perFrame := perFrame, out := false, required := required, margin := margin }

/-- The pointer register OUTs as an "out" region of n frames. -/
def dstRegion (a : Args) (k : Fin 2) (elem perFrame : Nat) (required : Bool) (margin : Nat) : Region :=
  { reg := BitVec.ofNat 32 (0x030 + 4 * k.val), ptr := a.out[k], elem := elem, count := perFrame * a.n,
    perFrame := perFrame, out := true, required := required, margin := margin }

/-- A meter pointer register as an "out" region: optional F32 elements (R33). -/
def meterRegion (reg ptr : Word) (count : Nat) : Region :=
  { reg := reg, ptr := ptr, elem := 4, count := count, perFrame := 0, out := true, required := false, margin := 0 }

/-- SMIX (R50): OUT0 has 8n bytes when OUT1 = 0, else 4n. -/
def smixRegions (a : Args) : List Region :=
  [ srcRegion a 0 4 2 false 0, srcRegion a 1 4 2 false 0,
    srcRegion a 2 4 2 false 0, srcRegion a 3 4 2 false 0,
    dstRegion a 0 4 (if a.split then 1 else 2) true 0, dstRegion a 1 4 1 false 0,
    meterRegion 0x038 a.imtr 8, meterRegion 0x03C a.omtr 2 ]

/-- MMIX (R50). -/
def mmixRegions (a : Args) : List Region :=
  [ srcRegion a 0 4 1 false 0, srcRegion a 1 4 1 false 0, srcRegion a 2 4 1 false 0,
    srcRegion a 3 4 1 false 0, dstRegion a 0 4 1 true 0 ]

/-- FXENC (R50, R111). -/
def fxencRegions (a : Args) : List Region := [ srcRegion a 0 4 1 true 0, dstRegion a 0 4 1 true 0 ]

/-- FXDEC (R50, R112). -/
def fxdecRegions (a : Args) : List Region := [ srcRegion a 0 4 1 true 0, dstRegion a 0 4 1 true 0 ]

/-- F2S16 (R50, R115), with margins (R56). -/
def f2s16Regions (a : Args) : List Region :=
  [ srcRegion a 0 4 2 true 16, dstRegion a 0 2 2 true 16 ]

/-- P2S16 (R50, R116), with margins (R56). -/
def p2s16Regions (a : Args) : List Region :=
  [ srcRegion a 0 4 1 true 8, srcRegion a 1 4 1 true 8, dstRegion a 0 2 2 true 16 ]

/-- S162F (R50, R117), with margins (R56). -/
def s162fRegions (a : Args) : List Region :=
  [ srcRegion a 0 2 2 true 16, dstRegion a 0 4 2 true 16 ]

/-- ILV (R50, R118). -/
def ilvRegions (a : Args) : List Region :=
  [ srcRegion a 0 4 1 true 0, srcRegion a 1 4 1 true 0, dstRegion a 0 4 2 true 0 ]

/-- DILV (R50, R119). -/
def dilvRegions (a : Args) : List Region :=
  [ srcRegion a 0 4 2 true 0, dstRegion a 0 4 1 true 0, dstRegion a 1 4 1 true 0 ]

/-- The regions of a command, in check order (R50, R123). -/
def regionsOf (i : Instr) (a : Args) : List Region :=
  match i with
  | .sinit _ => []
  | .smix _ _ => smixRegions a
  | .minit _ => []
  | .mmix _ _ => mmixRegions a
  | .fxenc => fxencRegions a
  | .fxdec => fxdecRegions a
  | .f2s16 => f2s16Regions a
  | .p2s16 => p2s16Regions a
  | .s162f => s162fRegions a
  | .ilv => ilvRegions a
  | .dilv => dilvRegions a

/-- A region is used when its pointer is not null (R44, R50). -/
def Region.used (r : Region) : Bool := r.ptr != 0

/-- The size of a region in bytes. -/
def Region.bytes (r : Region) : Nat := r.elem * r.count

/-- `Region(p, b)` (R49). -/
def Region.span (r : Region) : Span := { base := r.ptr.toNat, size := r.bytes }

/-- A required pointer that is 0 (R121 ERR_NULL). -/
def Region.isNull (r : Region) : Bool := r.required && !r.used

/-- A used pointer that is no multiple of its element size (R48, R121 ERR_ALIGN). -/
def Region.misaligned (r : Region) : Bool := r.used && decide (r.ptr.toNat % r.elem ≠ 0)

/-- A used region that passes 0xFFFFFFFF: p + b - 1 > 0xFFFFFFFF (R49, R121 ERR_RANGE). -/
def Region.outOfRange (r : Region) : Bool := r.used && decide (r.ptr.toNat + r.bytes > 2 ^ 32)

/-- The gain registers SMIX reads, with their offsets, in check order (R123). -/
def stereoGains (a : Args) : List (Word × Word) :=
  [ (0x040, a.gin[0]), (0x044, a.gin[1]), (0x048, a.gin[2]), (0x04C, a.gin[3]), (0x050, a.gin[4]),
    (0x054, a.gin[5]), (0x058, a.gin[6]), (0x05C, a.gin[7]), (0x060, a.gout[0]), (0x064, a.gout[1]) ]

/-- The gain registers MMIX reads, with their offsets, in check order (R123). -/
def monoGains (a : Args) : List (Word × Word) :=
  [ (0x040, a.gin[0]), (0x044, a.gin[1]), (0x048, a.gin[2]), (0x04C, a.gin[3]), (0x060, a.gout[0]) ]

/-- A legal COUNT range (R121). -/
def Args.countIn (a : Args) (lo hi : Nat) : Bool := decide (lo ≤ a.n) && decide (a.n ≤ hi)

/-- What the seven checks of R123 look at, for one command in one state. -/
structure Checks where
  /-- The row is present (R74). -/
  present : Bool
  /-- CTX is below the context count. -/
  ctxOk : Bool
  countOk : Bool
  gains : List (Word × Word)
  regions : List Region

/-- The first check that fails, in the order of R123, with its ERRADDR (R122). -/
def Checks.firstError (c : Checks) : Option (ErrCode × Word) :=
  if !c.present then some (.badOp, 0)
  else if !c.ctxOk then some (.ctx, 0)
  else if !c.countOk then some (.count, 0)
  else match c.gains.find? (fun g => !validGain g.2) with
  | some g => some (.gain, g.1)
  | none =>
    match c.regions.find? Region.isNull with
    | some r => some (.null, r.reg)
    | none =>
      match c.regions.find? Region.misaligned with
      | some r => some (.align, r.ptr)
      | none =>
        match c.regions.find? Region.outOfRange with
        | some r => some (.range, r.ptr)
        | none => none

/-- The checks of a buffer command without contexts or gains. -/
def bufferChecks (present countOk : Bool) (regions : List Region) : Checks :=
  { present := present, ctxOk := true, countOk := countOk, gains := [], regions := regions }

/-- A meter region: its pointer register is IMTR or OMTR (R33). -/
def Region.isMeter (r : Region) : Bool := r.reg == 0x038 || r.reg == 0x03C

/-- The exact in-place form of R57: an "in" and an "out" region with the same base, element size and element count. A meter
region is never in that form: there R57's letter and R102 disagree, and R102 is followed. DESIGN CHOICE, safe (log
entry 29). -/
def exactInPlace (o i : Region) : Bool :=
  !o.isMeter && !i.out && o.ptr == i.ptr && o.elem == i.elem && o.count == i.count

/-- Two regions of one command clash: one is an "out" region, they share a byte, and they are not in exact in-place
form (R57). -/
def clashes (o r : Region) : Bool :=
  o.out && o.reg != r.reg && o.used && r.used && o.span.meets r.span && !exactInPlace o r

/-- A non-exact overlap (R57, hazard H4). -/
def overlaps (rs : List Region) : Bool := rs.any (fun o => rs.any (clashes o))

/-- A used region that maps side-effecting addresses (R53, hazard H7). -/
def meetsDevice (platform : List Area) (rs : List Region) : Bool :=
  rs.any (fun r => r.used && platform.any (fun a => a.kind == .device && a.span.meets r.span))

/-- Whether an area fails to answer one element access (R54, U10). -/
def Area.fails (a : Area) (write : Bool) (el : Span) : Bool :=
  a.span.meets el && (match a.kind with
    | .absent => true
    | .readOnly => write
    | .writeOnly => !write
    | .silent => true
    | .device => false)

/-- An element access that fails: its address, whether it is a write, the frame it belongs to (none for a meter array), and
how the area that fails it answers. -/
structure FailedAccess where
  addr : Nat
  write : Bool
  frame : Option Nat
  kind : AreaKind
deriving DecidableEq, Repr

/-- The frame of element j of a region; none for a meter array (R58, R101). -/
def Region.frameOf (r : Region) (j : Nat) : Option Nat := if r.perFrame = 0 then none else some (j / r.perFrame)

/-- The element accesses of a region that would fail if issued. -/
def Region.failures (platform : List Area) (r : Region) : List FailedAccess :=
  if r.used then
    (List.range r.count).filterMap (fun j =>
      let addr := elemAddr r.ptr r.elem j
      match platform.find? (fun a => a.fails r.out { base := addr, size := r.elem }) with
      | some a => some { addr := addr, write := r.out, frame := r.frameOf j, kind := a.kind }
      | none => none)
  else []

/-- The element accesses of a command that would fail if issued. -/
def failures (platform : List Area) (rs : List Region) : List FailedAccess :=
  rs.flatMap (Region.failures platform)

/-- `f` is never issued once the read `g` has failed (R58, R129): it is a write of the same frame, or of a meter array, which
waits for the reads of every frame. -/
def FailedAccess.waitsFor (f g : FailedAccess) : Bool :=
  f.write && !g.write && (f.frame == none || f.frame == g.frame)

/-- The failing accesses that can be the first one met: those that wait for no failing read. Beyond R58 the order of accesses
is open (R61). -/
def firstFailures (platform : List Area) (rs : List Region) : List FailedAccess :=
  let fs := failures platform rs
  fs.filter (fun f => !fs.any f.waitsFor)

/-- The margin bytes behind a region (R56). -/
def Region.marginSpan (r : Region) : Span :=
  { base := r.ptr.toNat + r.bytes, size := r.margin * r.elem }

/-- Whether every margin byte is memory the platform admits (R56, U8). Which areas count as admitted the spec does not say:
all but absent and silent ones do, read-only, write-only and side-effecting ones among them, since no access of a margin
is ever made. DESIGN CHOICE, unsafe (log entry 30). -/
def marginsAdmitted (platform : List Area) (rs : List Region) : Bool :=
  rs.all (fun r => decide (r.marginSpan.base + r.marginSpan.size ≤ 2 ^ 32) &&
    platform.all (fun a => !((a.kind == .absent || a.kind == .silent) && a.span.meets r.marginSpan)))

/-- What memory has in store for a command (log entry 8). When accesses fail, which of those that can be met first is met
is a free choice (R61, R122, U13). -/
def fateOf (platform : List Area) (rs : List Region) (draw : Nat) : Fate :=
  if marginsAdmitted platform rs then
    match firstFailures platform rs with
    | [] => .completes
    | f :: fs =>
      let hit := (f :: fs).getD (Config.freeChoice draw % (fs.length + 1)) f
      if hit.kind = .silent then .noResponse else .busError (BitVec.ofNat 32 hit.addr)
  else .noMargin

/-- ACCEPTANCE of a command that runs (R127): the engine enters RUNNING with fresh accumulators and maxima (R40). -/
def State.startRun (s : State) (i : Instr) (rs : List Region) : State :=
  let fate := fateOf s.platform rs s.draws
  let dirty := overlaps rs || meetsDevice s.platform rs
  let s1 := ((s.noteIf (overlaps rs) .overlap).noteIf (meetsDevice s.platform rs) .device).noteIf
    (fate == .noMargin) .noMargin
  let s2 := s1.noteIf (fate == .noResponse) .noResponse
  { s2 with
    run := some
      { instr := i, frame := 0, acc := Vector.replicate 2 0, maxIn := Vector.replicate 8 0,
        maxOut := Vector.replicate 2 0, fate := fate, dirty := dirty } }

/-- REJECTION (R125): only the error record changes (and the model's own record of breaches, U1, U2). -/
def State.reject (s : State) (code : ErrCode) (addr : Word) : State :=
  (s.raiseError code addr).noteIf true .rejected

/-- The checks of R123, then rejection with the first error or the command's own acceptance. -/
def submit (c : Checks) (s : State) (accept : State → State) : Host.Outcome State Fault Refusal :=
  match c.firstError with
  | some e => .next (s.reject e.1 e.2)
  | none => .next (accept s)

end Sys2Proof.Machine
end

