-- ==== Sys2Proof/Machine/Fixed.lean ====
section
/-! DEFINITION. The fixed-point converter unit (43_fixed_point.md): FXENC (R111) and FXDEC (R112). -/

namespace Sys2Proof.Machine

/-- The checks of FXENC (R111). -/
def fxencChecks (s : State) : Checks := bufferChecks true (s.args.countIn 1 4096) (fxencRegions s.args)

/-- FXENC (R111, R127): checked and accepted; the engine's turns do its words (`fxencFrame`). -/
def execFxenc (s : State) : Host.Outcome State Fault Refusal :=
  submit (fxencChecks s) s (fun s => s.startRun .fxenc (fxencRegions s.args))

/-- The checks of FXDEC (R112). -/
def fxdecChecks (s : State) : Checks := bufferChecks true (s.args.countIn 1 4096) (fxdecRegions s.args)

/-- FXDEC (R112, R127): checked and accepted; the engine's turns do its words (`fxdecFrame`). -/
def execFxdec (s : State) : Host.Outcome State Fault Refusal :=
  submit (fxdecChecks s) s (fun s => s.startRun .fxdec (fxdecRegions s.args))

/-- One frame that only writes memory: the frame index moves on. -/
def State.advance (s : State) (r : Run) (m : Memory) : State :=
  { s with mem := m, run := some { r with frame := r.frame + 1 } }

/-- Word i of FXENC (R111). -/
def fxencFrame (r : Run) (s : State) : State :=
  s.advance r (s.mem.writeWord (elemAddr s.args.out[0] 4 r.frame)
    (fxEnc (s.mem.readWord (elemAddr s.args.inp[0] 4 r.frame))))

/-- Word i of FXDEC (R112). -/
def fxdecFrame (r : Run) (s : State) : State :=
  s.advance r (s.mem.writeWord (elemAddr s.args.out[0] 4 r.frame)
    (b32 (fxDec (s.mem.readWord (elemAddr s.args.inp[0] 4 r.frame)))))

end Sys2Proof.Machine
end

