-- ==== Sys2Proof/Machine/Format.lean ====
section
/-! DEFINITION. The sample format converter unit (44_format_converters.md): F2S16 (R115), P2S16 (R116), S162F (R117), ILV (R118)
and DILV (R119). Frame i of an interleaved buffer is its elements 2i and 2i + 1 (R151). -/

namespace Sys2Proof.Machine

/-- The checks of F2S16 (R115). -/
def f2s16Checks (s : State) : Checks := bufferChecks true (s.args.countIn 4 2048) (f2s16Regions s.args)

/-- F2S16 (R115, R127): checked and accepted; the engine's turns do its frames (`f2s16Frame`). -/
def execF2s16 (s : State) : Host.Outcome State Fault Refusal :=
  submit (f2s16Checks s) s (fun s => s.startRun .f2s16 (f2s16Regions s.args))

/-- The checks of P2S16 (R116). -/
def p2s16Checks (s : State) : Checks := bufferChecks true (s.args.countIn 4 2048) (p2s16Regions s.args)

/-- P2S16 (R116, R127): checked and accepted; the engine's turns do its frames (`p2s16Frame`). -/
def execP2s16 (s : State) : Host.Outcome State Fault Refusal :=
  submit (p2s16Checks s) s (fun s => s.startRun .p2s16 (p2s16Regions s.args))

/-- The checks of S162F (R117). -/
def s162fChecks (s : State) : Checks := bufferChecks true (s.args.countIn 4 2048) (s162fRegions s.args)

/-- S162F (R117, R127): checked and accepted; the engine's turns do its frames (`s162fFrame`). -/
def execS162f (s : State) : Host.Outcome State Fault Refusal :=
  submit (s162fChecks s) s (fun s => s.startRun .s162f (s162fRegions s.args))

/-- The checks of ILV (R118): present only when P_FLOAT_LAYOUT_OPS = 1 (R74). -/
def ilvChecks (s : State) : Checks := bufferChecks s.cfg.layoutOps (s.args.countIn 1 2048) (ilvRegions s.args)

/-- ILV (R118, R127): checked and accepted; the engine's turns do its frames (`ilvFrame`). -/
def execIlv (s : State) : Host.Outcome State Fault Refusal :=
  submit (ilvChecks s) s (fun s => s.startRun .ilv (ilvRegions s.args))

/-- The checks of DILV (R119): present only when P_FLOAT_LAYOUT_OPS = 1 (R74). -/
def dilvChecks (s : State) : Checks := bufferChecks s.cfg.layoutOps (s.args.countIn 1 2048) (dilvRegions s.args)

/-- DILV (R119, R127): checked and accepted; the engine's turns do its frames (`dilvFrame`). -/
def execDilv (s : State) : Host.Outcome State Fault Refusal :=
  submit (dilvChecks s) s (fun s => s.startRun .dilv (dilvRegions s.args))

/-- Frame i of F2S16 (R115). -/
def f2s16Frame (r : Run) (s : State) : State :=
  let left := s16Enc (s.mem.readWord (elemAddr s.args.inp[0] 4 (2 * r.frame)))
  let right := s16Enc (s.mem.readWord (elemAddr s.args.inp[0] 4 (2 * r.frame + 1)))
  s.advance r ((s.mem.writeHalf (elemAddr s.args.out[0] 2 (2 * r.frame)) left).writeHalf
    (elemAddr s.args.out[0] 2 (2 * r.frame + 1)) right)

/-- Frame i of P2S16 (R116). -/
def p2s16Frame (r : Run) (s : State) : State :=
  let left := s16Enc (s.mem.readWord (elemAddr s.args.inp[0] 4 r.frame))
  let right := s16Enc (s.mem.readWord (elemAddr s.args.inp[1] 4 r.frame))
  s.advance r ((s.mem.writeHalf (elemAddr s.args.out[0] 2 (2 * r.frame)) left).writeHalf
    (elemAddr s.args.out[0] 2 (2 * r.frame + 1)) right)

/-- Frame i of S162F (R117). -/
def s162fFrame (r : Run) (s : State) : State :=
  let left := b32 (s16Dec (s.mem.readHalf (elemAddr s.args.inp[0] 2 (2 * r.frame))))
  let right := b32 (s16Dec (s.mem.readHalf (elemAddr s.args.inp[0] 2 (2 * r.frame + 1))))
  s.advance r ((s.mem.writeWord (elemAddr s.args.out[0] 4 (2 * r.frame)) left).writeWord
    (elemAddr s.args.out[0] 4 (2 * r.frame + 1)) right)

/-- Frame i of ILV (R118): a bit-exact copy. -/
def ilvFrame (r : Run) (s : State) : State :=
  let left := s.mem.readWord (elemAddr s.args.inp[0] 4 r.frame)
  let right := s.mem.readWord (elemAddr s.args.inp[1] 4 r.frame)
  s.advance r ((s.mem.writeWord (elemAddr s.args.out[0] 4 (2 * r.frame)) left).writeWord
    (elemAddr s.args.out[0] 4 (2 * r.frame + 1)) right)

/-- Frame i of DILV (R119): a bit-exact copy. -/
def dilvFrame (r : Run) (s : State) : State :=
  let left := s.mem.readWord (elemAddr s.args.inp[0] 4 (2 * r.frame))
  let right := s.mem.readWord (elemAddr s.args.inp[0] 4 (2 * r.frame + 1))
  s.advance r ((s.mem.writeWord (elemAddr s.args.out[0] 4 r.frame) left).writeWord
    (elemAddr s.args.out[1] 4 r.frame) right)

end Sys2Proof.Machine
end

