-- ==== Sys2Proof/Machine/Mono.lean ====
section
/-! DEFINITION. The mono mixer unit (42_mono_mixer.md): MINIT (R106) and MMIX (R107 to R110). It has no peak detector. -/

namespace Sys2Proof.Machine

/-- The checks of MINIT (R106). -/
def minitChecks (ctx : BitVec 4) (s : State) : Checks :=
  { present := true, ctxOk := decide (ctx.toNat < s.cfg.monoCtx), countOk := true, gains := [], regions := [] }

/-- MINIT (R106): every gain of MS[CTX] becomes 1.0; the command completes in the step of the CMD write (R126). -/
def execMinit (ctx : BitVec 4) (s : State) : Host.Outcome State Fault Refusal :=
  submit (minitChecks ctx s) s (fun s => (s.setMono ctx MonoCtx.init).endCommand)

/-- The checks of MMIX (R107): at least 8 samples, at most 2048, a multiple of 4. -/
def mmixChecks (ctx : BitVec 4) (s : State) : Checks :=
  { present := true, ctxOk := decide (ctx.toNat < s.cfg.monoCtx),
    countOk := s.args.countIn 8 2048 && decide (s.args.n % 4 = 0),
    gains := monoGains s.args, regions := mmixRegions s.args }

/-- MMIX (R107, R127): checked and accepted; the engine's turns do its frames (`mmixFrame`) and its completion
(`mmixComplete`). -/
def execMmix (ctx : BitVec 4) (fx : Bool) (s : State) : Host.Outcome State Fault Refusal :=
  submit (mmixChecks ctx s) s (fun s => s.startRun (.mmix ctx fx) (mmixRegions s.args))

/-- The contribution of slot k at sample i, or none for a null slot (R108, R85, R86). -/
def mmixContribution (s : State) (ctx : BitVec 4) (i : Nat) (k : Fin 4) : Option Word :=
  if s.args.inp[k] = 0 then none
  else some (fmul (ramp (s.mono ctx).inp[k] s.args.gin[k.val] s.args.n i)
    (s.mem.readWord (elemAddr s.args.inp[k] 4 i)))

/-- `acc` of R108 after the last slot. -/
def mmixAcc (s : State) (ctx : BitVec 4) (i : Nat) : Word :=
  accumulate [mmixContribution s ctx i 0, mmixContribution s ctx i 1, mmixContribution s ctx i 2,
    mmixContribution s ctx i 3]

/-- `o` of R108. -/
def mmixOut (s : State) (ctx : BitVec 4) (i : Nat) : Word :=
  fmul (mmixAcc s ctx i) (ramp (s.mono ctx).out s.args.gout[0] s.args.n i)

/-- One sample of MMIX (R108). -/
def mmixFrame (ctx : BitVec 4) (fx : Bool) (r : Run) (s : State) : State :=
  { s with
    mem := s.mem.writeWord (elemAddr s.args.out[0] 4 r.frame) (outWord fx (mmixOut s ctx r.frame))
    run := some { r with frame := r.frame + 1, acc := r.acc.set 0 (mmixAcc s ctx r.frame) } }

/-- The completion writes of MMIX (R108), but for the end of the command itself. -/
def mmixComplete (ctx : BitVec 4) (s : State) : State :=
  s.setMono ctx
    { inp := #v[s.args.gin[0], s.args.gin[1], s.args.gin[2], s.args.gin[3]], out := s.args.gout[0] }

end Sys2Proof.Machine
end

