-- ==== Sys2Proof/Machine/Stereo.lean ====
section
/-! DEFINITION. The stereo mixer unit (41_stereo_mixer.md): SINIT (R98) and SMIX (R99 to R105). -/

namespace Sys2Proof.Machine

/-- The checks of SINIT (R98). -/
def sinitChecks (ctx : BitVec 4) (s : State) : Checks :=
  { present := true, ctxOk := decide (ctx.toNat < s.cfg.stereoCtx), countOk := true, gains := [], regions := [] }

/-- SINIT (R98): every gain of SS[CTX] becomes 1.0; the command completes in the step of the CMD write (R126). -/
def execSinit (ctx : BitVec 4) (s : State) : Host.Outcome State Fault Refusal :=
  submit (sinitChecks ctx s) s (fun s => (s.setStereo ctx StereoCtx.init).endCommand)

/-- The checks of SMIX (R99). -/
def smixChecks (ctx : BitVec 4) (s : State) : Checks :=
  { present := true, ctxOk := decide (ctx.toNat < s.cfg.stereoCtx), countOk := s.args.countIn 2 2048,
    gains := stereoGains s.args, regions := smixRegions s.args }

/-- SMIX (R99, R127): checked and accepted; the engine's turns do its frames (`smixFrame`) and its completion
(`smixComplete`). -/
def execSmix (ctx : BitVec 4) (fx : Bool) (s : State) : Host.Outcome State Fault Refusal :=
  submit (smixChecks ctx s) s (fun s => s.startRun (.smix ctx fx) (smixRegions s.args))

/-- The gain index 2k + s of slot k, side s (R34). -/
def sideIndex (k : Fin 4) (side : Fin 2) : Fin 8 := ⟨2 * k.val + side.val, by omega⟩

/-- The slot of a gain index. -/
def slotOf (j : Fin 8) : Fin 4 := ⟨j.val / 2, by omega⟩

/-- The side of a gain index. -/
def sideOf (j : Fin 8) : Fin 2 := ⟨j.val % 2, by omega⟩

/-- The four slots in accumulation order (R86). -/
def slots : List (Fin 4) := [0, 1, 2, 3]

/-- `g` of R100: the gain of slot k, side s at frame i. -/
def smixGain (s : State) (ctx : BitVec 4) (i : Nat) (k : Fin 4) (side : Fin 2) : Word :=
  ramp (s.stereo ctx).inp[sideIndex k side] s.args.gin[sideIndex k side] s.args.n i

/-- `y` of R100: the contribution of slot k, side s at frame i, or none for a null slot (R85, R86). -/
def smixContribution (s : State) (ctx : BitVec 4) (i : Nat) (k : Fin 4) (side : Fin 2) : Option Word :=
  if s.args.inp[k] = 0 then none
  else some (fmul (smixGain s ctx i k side) (s.mem.readWord (elemAddr s.args.inp[k] 4 (2 * i + side.val))))

/-- `acc` of R100 after the last slot. -/
def smixAcc (s : State) (ctx : BitVec 4) (i : Nat) (side : Fin 2) : Word :=
  accumulate (slots.map (fun k => smixContribution s ctx i k side))

/-- `o` of R100. -/
def smixOut (s : State) (ctx : BitVec 4) (i : Nat) (side : Fin 2) : Word :=
  fmul (smixAcc s ctx i side) (ramp (s.stereo ctx).out[side] s.args.gout[side] s.args.n i)

/-- The address frame i, side s is written to (R100). -/
def smixOutAddr (a : Args) (i : Nat) (side : Fin 2) : Nat :=
  if a.split then elemAddr a.out[side] 4 i else elemAddr a.out[0] 4 (2 * i + side.val)

/-- The input maxima after frame i. -/
def smixMaxIn (s : State) (ctx : BitVec 4) (i : Nat) (m : Vector Word 8) : Vector Word 8 :=
  Vector.ofFn (fun j : Fin 8 => peakOf m[j] (smixContribution s ctx i (slotOf j) (sideOf j)))

/-- The output maxima after frame i. -/
def smixMaxOut (s : State) (ctx : BitVec 4) (i : Nat) (m : Vector Word 2) : Vector Word 2 :=
  Vector.ofFn (fun j : Fin 2 => peakUpd m[j] (smixOut s ctx i j))

/-- One frame of SMIX (R100): every read of the frame before its writes (R58). -/
def smixFrame (ctx : BitVec 4) (fx : Bool) (r : Run) (s : State) : State :=
  { s with
    mem := (s.mem.writeWord (smixOutAddr s.args r.frame 0) (outWord fx (smixOut s ctx r.frame 0))).writeWord
      (smixOutAddr s.args r.frame 1) (outWord fx (smixOut s ctx r.frame 1))
    run := some
      { r with
        frame := r.frame + 1
        acc := Vector.ofFn (fun j : Fin 2 => smixAcc s ctx r.frame j)
        maxIn := smixMaxIn s ctx r.frame r.maxIn
        maxOut := smixMaxOut s ctx r.frame r.maxOut } }

/-- A meter array written to memory, if its pointer is not 0 (R101): `count` words from `base` on. -/
def writeMeters (m : Memory) (ptr : Word) (values : List Word) : Memory :=
  if ptr = 0 then m
  else (values.zipIdx).foldl (fun m v => m.writeWord (elemAddr ptr 4 v.2) (b32 v.1)) m

/-- The completion writes of SMIX (R101), but for the end of the command itself. -/
def smixComplete (ctx : BitVec 4) (r : Run) (s : State) : State :=
  let s1 := { s with
    mem := writeMeters (writeMeters s.mem s.args.imtr r.maxIn.toList) s.args.omtr r.maxOut.toList
    peakIn := r.maxIn.map b32
    peakOut := r.maxOut.map b32 }
  s1.setStereo ctx { inp := s.args.gin, out := s.args.gout }

end Sys2Proof.Machine
end

