-- ==== Sys2Proof/Machine/Dispatch.lean ====
section
/-! DEFINITION. The dispatch of a decoded command to its meaning, one arm per constructor. -/

namespace Sys2Proof.Machine

def exec (i : Instr) (s : State) : Host.Outcome State Fault Refusal :=
  match i with
  | .sinit ctx => Sys2Proof.Machine.execSinit ctx s
  | .smix ctx fx => Sys2Proof.Machine.execSmix ctx fx s
  | .minit ctx => Sys2Proof.Machine.execMinit ctx s
  | .mmix ctx fx => Sys2Proof.Machine.execMmix ctx fx s
  | .fxenc => Sys2Proof.Machine.execFxenc s
  | .fxdec => Sys2Proof.Machine.execFxdec s
  | .f2s16 => Sys2Proof.Machine.execF2s16 s
  | .p2s16 => Sys2Proof.Machine.execP2s16 s
  | .s162f => Sys2Proof.Machine.execS162f s
  | .ilv => Sys2Proof.Machine.execIlv s
  | .dilv => Sys2Proof.Machine.execDilv s

end Sys2Proof.Machine
end

