-- ==== Sys2Proof/Machine/Flags.lean ====
section
/-! DEFINITION. The STATUS word, its write-1-to-clear bits, the CTRL word and the irq level (10_state.md R26, R27;
60_exceptions.md R132). These bits are the block's only flags (R27). -/

namespace Sys2Proof.Machine

/-- The value of STATUS.ERRCODE (R121). -/
def ErrCode.bits : ErrCode → BitVec 4
  | .none => 0
  | .badOp => 1
  | .ctx => 2
  | .count => 3
  | .gain => 4
  | .null => 5
  | .align => 6
  | .range => 7
  | .bus => 8

/-- STATUS as a word (R27): reserved bits read 0. -/
def State.statusWord (s : State) : Word :=
  0#24 ++ s.errCode.bits ++ BitVec.ofBool s.wign ++ BitVec.ofBool s.err ++ BitVec.ofBool s.done ++ BitVec.ofBool s.busy

/-- CTRL as a word (R26): SRESET and the reserved bits read 0. -/
def State.ctrlWord (s : State) : Word := 0#31 ++ BitVec.ofBool s.irqEn

/-- A write to STATUS (R27): a 1 clears DONE, ERR with ERRCODE and ERRADDR, or WIGN; every other bit is ignored. -/
def State.writeStatus (s : State) (v : Word) : State :=
  let s1 := { s with done := s.done && !v.getLsbD 1, wign := s.wign && !v.getLsbD 3 }
  if v.getLsbD 2 then s1.clearError else s1

/-- A write ignored under the busy lock (R21). -/
def State.ignoreWrite (s : State) : State := { s with wign := true }

/-- The irq output (R132). -/
def State.irq (s : State) : Bool := s.irqEn && (s.done || s.err)

end Sys2Proof.Machine
end

