-- ==== Sys2Proof/Machine/Engine.lean ====
section
/-! DEFINITION. The engine's turns while RUNNING (60_exceptions.md R127 to R129): one frame a turn, then one completion turn; or an
abort; and the reset of the block (70_reset_and_hazards.md R140, R141). -/

namespace Sys2Proof.Machine

/-- The regions of the running command: the argument registers do not change while it runs (R21). -/
def State.runRegions (s : State) (r : Run) : List Region := regionsOf r.instr s.args

/-- The spans of the used "out" regions. -/
def outSpans (rs : List Region) : List Span :=
  (rs.filter (fun r => r.out && r.used)).map Region.span

/-- The spans of every used region. -/
def usedSpans (rs : List Region) : List Span := (rs.filter Region.used).map Region.span

/-- The "out" regions made free (R57, R129, R140). -/
def State.freeOut (s : State) (rs : List Region) : State := (outSpans rs).foldl State.freeSpan s

/-- What a broken host duty leaves (R57, R148), if one was broken. -/
def State.spoilIf (s : State) (dirty : Bool) (rs : List Region) : State :=
  if dirty then (s.freeOut rs).freePeaks else s

/-- The frame of the running command at `r.frame`. SINIT and MINIT never run (R126). -/
def frameTurn (r : Run) (s : State) : State :=
  match r.instr with
  | .sinit _ => s
  | .smix ctx fx => smixFrame ctx fx r s
  | .minit _ => s
  | .mmix ctx fx => mmixFrame ctx fx r s
  | .fxenc => fxencFrame r s
  | .fxdec => fxdecFrame r s
  | .f2s16 => f2s16Frame r s
  | .p2s16 => p2s16Frame r s
  | .s162f => s162fFrame r s
  | .ilv => ilvFrame r s
  | .dilv => dilvFrame r s

/-- The completion writes of the running command (R101, R108); the converters have none. -/
def completionWrites (r : Run) (s : State) : State :=
  match r.instr with
  | .sinit _ => s
  | .smix ctx _ => smixComplete ctx r s
  | .minit _ => s
  | .mmix ctx _ => mmixComplete ctx s
  | .fxenc => s
  | .fxdec => s
  | .f2s16 => s
  | .p2s16 => s
  | .s162f => s
  | .ilv => s
  | .dilv => s

/-- COMPLETION (R128), in one step. The host has not yet acquired what was written (R59). -/
def completeRun (r : Run) (s : State) : State :=
  let s1 := ((completionWrites r s).spoilIf r.dirty (s.runRegions r)).endCommand
  { s1 with unseen := outSpans (s.runRegions r) ++ s1.unseen }

/-- ABORT on ERR_BUS (R129): the "out" regions are free (U11), the contexts and PEAK_* unchanged unless a host duty was
broken (R148). R129 lets accesses already issued still complete and gives no time: here they have all completed when the
abort's step ends, so none lands on a later command's writes. DESIGN CHOICE, unsafe (log entry 32). -/
def abortRun (addr : Word) (r : Run) (s : State) : State :=
  let s1 := (s.freeOut (s.runRegions r))
  let s2 := if r.dirty then s1.freePeaks else s1
  let s3 := ((s2.raiseError .bus addr).noteIf true .busError)
  { s3 with run := none, unseen := outSpans (s.runRegions r) ++ s3.unseen }

/-- One turn of the engine. IDLE, it does nothing (R142); stuck, it has no enabled step (R56, U8, U10). -/
def engineTurn (s : State) : State :=
  match s.run with
  | none => s
  | some r =>
    match r.fate with
    | .noMargin => s
    | .noResponse => s
    | .busError addr => abortRun addr r s
    | .completes => if r.frame < s.args.n then frameTurn r s else completeRun r s

/-- k turns of the engine. -/
def engineTurns : Nat → State → State
  | 0, s => s
  | k + 1, s => engineTurns k (engineTurn s)

/-- The regions of the command that a reset abandons; none while IDLE. -/
def State.abandoned (s : State) : List Region :=
  match s.run with
  | none => []
  | some r => s.runRegions r

/-- RESET, hard (R140) or soft (R141): every piece of the block's state takes its reset value; memory is not reset, but
the "out" regions of an abandoned command are free (U12). What is not the block's stays: the configuration, the
platform, the pending inputs, the host's view of memory and the model's own records. What the abandoned command wrote
is unordered with the host's accesses, as after an abort (R59; log entry 31), and all of it has landed before a later command's accesses (log entry 32): DESIGN
CHOICE. -/
def resetBlock (s : State) : State :=
  let s1 := s.freeOut s.abandoned
  { State.reset with
    cfg := s.cfg, mem := s1.mem, platform := s.platform, unseen := outSpans s.abandoned ++ s.unseen, events := s.events,
    reply := s.reply, draws := s1.draws, breaches := s.breaches }

end Sys2Proof.Machine
end

