-- ==== Sys2Proof/Machine/Port.lean ====
section
/-! DEFINITION. The register target port and the host's accesses to system memory (10_state.md R17 to R38; 20_memory.md R59, R60). The
write of CMD is in Command.lean. -/

namespace Sys2Proof.Machine

/-- The registers of the map R23. -/
inductive Reg where
  | id | caps | ctrl | status | cmd | count | errAddr
  | inp (k : Fin 4)
  | out (k : Fin 2)
  | imtr | omtr
  | gin (j : Fin 8)
  | gout (k : Fin 2)
  | peakIn (j : Fin 8)
  | peakOut (k : Fin 2)
  | ssIn (c : BitVec 4) (j : Fin 8)
  | ssOut (c : BitVec 4) (k : Fin 2)
  | msIn (c : BitVec 4) (k : Fin 4)
  | msOut (c : BitVec 4)
  | unmapped
deriving DecidableEq, Repr

/-- The register of SS[c] at word w of its 64 bytes (R23); contexts the configuration lacks are unmapped (R19). -/
def stereoReg (cfg : Config) (c w : Nat) : Reg :=
  if c < cfg.stereoCtx then
    if w < 8 then .ssIn (BitVec.ofNat 4 c) (Fin.ofNat 8 w)
    else if w < 10 then .ssOut (BitVec.ofNat 4 c) (Fin.ofNat 2 (w - 8))
    else .unmapped
  else .unmapped

/-- The register of MS[c] at word w of its 32 bytes (R23, R19). -/
def monoReg (cfg : Config) (c w : Nat) : Reg :=
  if c < cfg.monoCtx then
    if w < 4 then .msIn (BitVec.ofNat 4 c) (Fin.ofNat 4 w)
    else if w = 4 then .msOut (BitVec.ofNat 4 c)
    else .unmapped
  else .unmapped

/-- The register at a word-aligned offset (R23). -/
def regAt (cfg : Config) (o : Nat) : Reg :=
  if o < 0x020 then
    if o = 0x000 then .id
    else if o = 0x004 then .caps
    else if o = 0x008 then .ctrl
    else if o = 0x00C then .status
    else if o = 0x010 then .cmd
    else if o = 0x014 then .count
    else if o = 0x018 then .errAddr
    else .unmapped
  else if o < 0x030 then .inp (Fin.ofNat 4 ((o - 0x020) / 4))
  else if o < 0x038 then .out (Fin.ofNat 2 ((o - 0x030) / 4))
  else if o < 0x03C then .imtr
  else if o < 0x040 then .omtr
  else if o < 0x060 then .gin (Fin.ofNat 8 ((o - 0x040) / 4))
  else if o < 0x068 then .gout (Fin.ofNat 2 ((o - 0x060) / 4))
  else if o < 0x080 then .unmapped
  else if o < 0x0A0 then .peakIn (Fin.ofNat 8 ((o - 0x080) / 4))
  else if o < 0x0A8 then .peakOut (Fin.ofNat 2 ((o - 0x0A0) / 4))
  else if o < 0x100 then .unmapped
  else if o < 0x500 then stereoReg cfg ((o - 0x100) / 0x40) ((o - 0x100) % 0x40 / 4)
  else if o < 0x700 then monoReg cfg ((o - 0x500) / 0x20) ((o - 0x500) % 0x20 / 4)
  else .unmapped

/-- CAPS (R25). -/
def capsWord (cfg : Config) : Word :=
  0#15 ++ BitVec.ofBool cfg.layoutOps ++ 0#3 ++ BitVec.ofNat 5 cfg.monoCtx ++ 0#3 ++ BitVec.ofNat 5 cfg.stereoCtx

/-- The value a register reads (R24 to R38). CMD and unmapped offsets read 0 (R19, R28). -/
def readReg (s : State) : Reg → Word
  | .id => 0x534D5831
  | .caps => capsWord s.cfg
  | .ctrl => s.ctrlWord
  | .status => s.statusWord
  | .cmd => 0
  | .count => s.args.count
  | .errAddr => s.errAddr
  | .inp k => s.args.inp[k]
  | .out k => s.args.out[k]
  | .imtr => s.args.imtr
  | .omtr => s.args.omtr
  | .gin j => s.args.gin[j]
  | .gout k => s.args.gout[k]
  | .peakIn j => s.peakIn[j]
  | .peakOut k => s.peakOut[k]
  | .ssIn c j => (s.stereo c).inp[j]
  | .ssOut c k => (s.stereo c).out[k]
  | .msIn c k => (s.mono c).inp[k]
  | .msOut c => (s.mono c).out
  | .unmapped => 0

/-- Whether a register is one of the argument registers of the busy lock (R21). -/
def Reg.isArg : Reg → Bool
  | .count => true
  | .inp _ => true
  | .out _ => true
  | .imtr => true
  | .omtr => true
  | .gin _ => true
  | .gout _ => true
  | .id => false
  | .caps => false
  | .ctrl => false
  | .status => false
  | .cmd => false
  | .errAddr => false
  | .peakIn _ => false
  | .peakOut _ => false
  | .ssIn _ _ => false
  | .ssOut _ _ => false
  | .msIn _ _ => false
  | .msOut _ => false
  | .unmapped => false

/-- The argument registers after a write of one of them; any other register leaves them. -/
def writeArg (a : Args) (v : Word) : Reg → Args
  | .count => { a with count := v }
  | .inp k => { a with inp := a.inp.set k.val v k.isLt }
  | .out k => { a with out := a.out.set k.val v k.isLt }
  | .imtr => { a with imtr := v }
  | .omtr => { a with omtr := v }
  | .gin j => { a with gin := a.gin.set j.val v j.isLt }
  | .gout k => { a with gout := a.gout.set k.val v k.isLt }
  | .id => a
  | .caps => a
  | .ctrl => a
  | .status => a
  | .cmd => a
  | .errAddr => a
  | .peakIn _ => a
  | .peakOut _ => a
  | .ssIn _ _ => a
  | .ssOut _ _ => a
  | .msIn _ _ => a
  | .msOut _ => a
  | .unmapped => a

/-- A write to CTRL (R26): SRESET = 1 is a soft reset, IRQ_EN included (R141); else IRQ_EN takes bit 0. -/
def writeCtrl (s : State) (v : Word) : State :=
  if v.getLsbD 1 then resetBlock s else { s with irqEn := v.getLsbD 0 }

/-- A write to any register but CMD: the busy lock (R21), CTRL and STATUS at any time, the rest ignored (R19, R20). -/
def writeReg (s : State) (r : Reg) (v : Word) : State :=
  if r.isArg then
    if s.busy then s.ignoreWrite else { s with args := writeArg s.args v r }
  else if r = .ctrl then writeCtrl s v
  else if r = .status then s.writeStatus v
  else s

/-- How a host access meets the register window (R17, R18). -/
inductive PortAccess where
  /-- The address is not in the window. -/
  | outside
  /-- Not a 32-bit access at a multiple of 4. -/
  | bad
  | reg (r : Reg)
deriving DecidableEq, Repr

/-- The register a host access reaches: the window is the 4 KiB at P_REG_BASE (R17), 32-bit aligned accesses only (R18). -/
def portAccess (cfg : Config) (addr : Word) (size : AccessSize) : PortAccess :=
  if addr.extractLsb' 12 20 ≠ cfg.regPage then .outside
  else if size ≠ .word ∨ addr.toNat % 4 ≠ 0 then .bad
  else .reg (regAt cfg (addr.toNat % 2 ^ 12))

/-- The error response of R18: nothing of the block changes (U5). -/
def State.badAccess (s : State) : State := ({ s with reply := .error }).noteIf true .badAccess

/-- A STATUS read that sees BUSY = 0 and DONE = 1 acquires what the engine wrote (R59). -/
def State.acquireIf (s : State) (cond : Bool) : State :=
  { s with unseen := if cond then [] else s.unseen }

/-- A host read on the register port. -/
def portRead (s : State) (addr : Word) (size : AccessSize) : State :=
  match portAccess s.cfg addr size with
  | .outside => { s with reply := .none }
  | .bad => s.badAccess
  | .reg r =>
    ({ s with reply := .data (readReg s r) }).acquireIf (decide (r = Reg.status) && !s.busy && s.done)

/-- Whether a byte lies in one of the spans. -/
def inSpans (sps : List Span) (a : Nat) : Bool := sps.any (fun sp => sp.has a)

/-- Whether the running command has a byte among the given spans of its regions. -/
def State.runHas (s : State) (spans : List Region → List Span) (a : Nat) : Bool :=
  match s.run with
  | none => false
  | some r => inSpans (spans (s.runRegions r)) a

/-- The host breaks its duty of R60 towards the running command, if `cond` holds (H3, R148). -/
def State.touchIf (s : State) (cond : Bool) : State :=
  ({ s with run := s.run.map (fun (r : Run) => { r with dirty := r.dirty || cond }) }).noteIf cond .hostTouch

/-- A host load of a byte. In an "out" region of the running command (R60, U7), or before the host's acquire (R59, U21),
it is a free byte. -/
def hostLoad (s : State) (addr : Word) : State :=
  let racing := s.runHas outSpans addr.toNat
  let s1 := s.touchIf racing
  if racing || inSpans s.unseen addr.toNat then
    { s1 with reply := .byte (Config.freeByte s.draws), draws := s.draws + 1 }
  else { s1 with reply := .byte (s.mem.readByte addr.toNat) }

/-- A host store of a byte. In a region of the running command it breaks R60; on a byte the engine wrote and the host has
not acquired, no order is promised (R59), so the byte ends free. -/
def hostStore (s : State) (addr : Word) (v : Byte) : State :=
  let s1 := s.touchIf (s.runHas usedSpans addr.toNat)
  if inSpans s.unseen addr.toNat then
    { s1 with mem := s.mem.writeByte addr.toNat (Config.freeByte s.draws), draws := s.draws + 1, reply := .ok }
  else { s1 with mem := s.mem.writeByte addr.toNat v, reply := .ok }

end Sys2Proof.Machine
end

