-- ==== Sys2Proof/Machine/Command.lean ====
section
/-! DEFINITION. The write of CMD (10_state.md R28), which is how a command is fetched, and the serving of one pending input. -/

namespace Sys2Proof.Machine

/-- What an accepted CMD write does before it decodes (R28): DONE, ERR, ERRCODE and ERRADDR become 0. -/
def State.acceptCmd (s : State) : State := { s.clearError with done := false }

/-- A host write of `w` to CMD: ignored while BUSY (R21), else decoded and run; an illegal word is rejected with
ERR_BADOP (R73, R125). -/
def writeCmd (s : State) (w : Word) : Host.Outcome State Fault Refusal :=
  if s.busy then .next s.ignoreWrite
  else
    match decode w with
    | some i => exec i s.acceptCmd
    | none => .next (s.acceptCmd.reject .badOp 0)

/-- A host write on the register port. -/
def portWrite (s : State) (addr : Word) (size : AccessSize) (v : Word) : Host.Outcome State Fault Refusal :=
  match portAccess s.cfg addr size with
  | .outside => .next { s with reply := .none }
  | .bad => .next s.badAccess
  | .reg r =>
    if r = Reg.cmd then writeCmd { s with reply := .ok } v else .next (writeReg { s with reply := .ok } r v)

/-- One pending input served. -/
def serve (s : State) : Event → Host.Outcome State Fault Refusal
  | .read addr size => .next (portRead s addr size)
  | .write addr size v => portWrite s addr size v
  | .load addr => .next (hostLoad s addr)
  | .store addr v => .next (hostStore s addr v)
  | .reset => .next (resetBlock s)
  | .engine => .next (engineTurn s)

/-- The engine moves when no input is pending (R146). A stuck engine has no enabled step (U8, U10). -/
def enginePending (s : State) : Host.Outcome State Fault Refusal :=
  match s.run with
  | none => .next s
  | some r =>
    match r.fate with
    | .noMargin => .fault .engineNoMargin
    | .noResponse => .fault .engineNoResponse
    | .busError _ => .next (engineTurn s)
    | .completes => .next (engineTurn s)

/-- The host address of CMD (R17, R23). -/
def cmdAddr (cfg : Config) : Word := cfg.regPage ++ 0x010#12

/-- `s` with a write of CMD as its next input and the engine IDLE, so that the write is not ignored (log entry 2). -/
def placeCommand (s : State) (w : Word) : State :=
  { s with run := none, events := .write (cmdAddr s.cfg) .word w :: s.events }

end Sys2Proof.Machine
end

