-- ==== Sys2Proof/Machine/Step.lean ====
section
/-! DEFINITION. One step of the machine: the oldest pending input is served; with none pending, the engine moves. -/

namespace Sys2Proof.Machine

def step (s : State) : Host.Outcome State Fault Refusal :=
  match s.events with
  | [] => enginePending s
  | e :: es => serve { s with events := es } e

/-- `s` with the command word `w` of `nbits` bits as its next input. A command has one 32-bit word (R67), so the bits above
`nbits` are the zero bits of the number `w`. -/
def State.withFetchWord (s : State) (nbits w : Nat) : State :=
  placeCommand s (BitVec.ofNat 32 (w % 2 ^ nbits))

end Sys2Proof.Machine
end

