-- ==== Sys2Proof/Safety.lean ====
section
/-! DEFINITION. The terms claims are made in: no model fault recorded (93_implementation_defined.md part 1), the end of a run
(70_reset_and_hazards.md R149), when a command is accepted (60_exceptions.md R121, R123), when nothing outside the block
disturbs it, the meters of a block (40_datapath.md R88, R89), what a correctly rounded value is (R80), and the invariant every step keeps. -/

namespace Sys2Proof.Machine

/-- No model fault has been recorded: the premise "no fault" of 93_implementation_defined.md. -/
def State.clean (s : State) : Bool := s.breaches.isEmpty

/-- The end of a run (R149): DONE = 1, and BUSY is then 0. -/
def State.ended (s : State) : Bool := s.done && !s.busy

end Sys2Proof.Machine

namespace Sys2Proof

open Sys2Proof.Machine

/-- The commands that run, all but SINIT and MINIT (R126, R127). -/
def Instr.runs : Instr → Bool
  | .sinit _ => false
  | .minit _ => false
  | .smix _ _ => true
  | .mmix _ _ => true
  | .fxenc => true
  | .fxdec => true
  | .f2s16 => true
  | .p2s16 => true
  | .s162f => true
  | .ilv => true
  | .dilv => true


end Sys2Proof

namespace Sys2Proof.Machine

/-- The COUNT ranges of R121. -/
def countLegal (i : Instr) (n : Nat) : Bool :=
  match i with
  | .sinit _ => true
  | .minit _ => true
  | .smix _ _ => decide (2 ≤ n ∧ n ≤ 2048)
  | .mmix _ _ => decide (8 ≤ n ∧ n ≤ 2048 ∧ n % 4 = 0)
  | .fxenc => decide (1 ≤ n ∧ n ≤ 4096)
  | .fxdec => decide (1 ≤ n ∧ n ≤ 4096)
  | .f2s16 => decide (4 ≤ n ∧ n ≤ 2048)
  | .p2s16 => decide (4 ≤ n ∧ n ≤ 2048)
  | .s162f => decide (4 ≤ n ∧ n ≤ 2048)
  | .ilv => decide (1 ≤ n ∧ n ≤ 2048)
  | .dilv => decide (1 ≤ n ∧ n ≤ 2048)

/-- The gain registers a command reads are valid (R82, R123). -/
def gainsLegal (i : Instr) (a : Args) : Bool :=
  match i with
  | .smix _ _ => decide ((∀ j : Fin 8, validGain a.gin[j] = true) ∧ ∀ k : Fin 2, validGain a.gout[k] = true)
  | .mmix _ _ => decide ((∀ j : Fin 4, validGain a.gin[j.val] = true) ∧ validGain a.gout[0] = true)
  | .sinit _ => true
  | .minit _ => true
  | .fxenc => true
  | .fxdec => true
  | .f2s16 => true
  | .p2s16 => true
  | .s162f => true
  | .ilv => true
  | .dilv => true

/-- The pointers of a command are present, aligned and in range (R48 to R50). -/
def regionsLegal (rs : List Region) : Bool :=
  rs.all (fun r =>
    (!r.required || decide (r.ptr ≠ 0)) &&
    (decide (r.ptr = 0) || (decide (r.ptr.toNat % r.elem = 0) && decide (r.ptr.toNat + r.elem * r.count ≤ 2 ^ 32))))

end Sys2Proof.Machine

namespace Sys2Proof

open Sys2Proof.Machine

/-- The seven conditions of R123 all hold: the command is accepted. -/
def Instr.accepted (i : Instr) (s : State) : Bool :=
  i.wellFormed s.cfg && countLegal i s.args.n && gainsLegal i s.args && regionsLegal (regionsOf i s.args)

/-- Nothing outside the block disturbs the command: no non-exact overlap (R57), no side-effecting addresses (R53), every
access answered (R54), margins admitted (R56). -/
def Instr.undisturbed (i : Instr) (s : State) : Bool :=
  !overlaps (regionsOf i s.args) && !meetsDevice s.platform (regionsOf i s.args) &&
  (failures s.platform (regionsOf i s.args)).isEmpty && marginsAdmitted s.platform (regionsOf i s.args)


end Sys2Proof

namespace Sys2Proof.Machine

/-- The meter of input side j after the first frames of an SMIX that starts in `s` (R88, R89). -/
def meterIn (s : State) (ctx : BitVec 4) (j : Fin 8) : Nat → Word
  | 0 => 0
  | i + 1 => peakOf (meterIn s ctx j i) (smixContribution s ctx i (slotOf j) (sideOf j))

/-- The meter of output side k after the first frames of an SMIX that starts in `s` (R88, R89). -/
def meterOut (s : State) (ctx : BitVec 4) (k : Fin 2) : Nat → Word
  | 0 => 0
  | i + 1 => peakUpd (meterOut s ctx k i) (smixOut s ctx i k)

/-- The value of a finite encoding in units of 2^-149 (R79); 0 for an infinity or a NaN. -/
def valueOf (b : Word) : Int :=
  match f32 b with
  | .nan => 0
  | .inf _ => 0
  | .fin neg mag => signed neg mag

/-- A finite encoding (R79). -/
def isFinite (b : Word) : Bool := decide (expField b ≠ 255)

/-- `r` is num / den units of 2^-149 with the sign `neg`, rounded once to nearest, ties to even (R80): an infinity from half
a unit above the largest finite value on; else a finite encoding that no finite encoding is nearer than, even if another
value is as near. -/
def RoundsTo (neg : Bool) (num den : Nat) (r : Word) : Prop :=
  r.msb = neg ∧
  if (2 ^ 25 - 1) * 2 ^ 252 * den ≤ num then f32 r = .inf neg
  else
    isFinite r = true ∧
    ∀ b : Word, isFinite b = true →
      (valueOf r * den - signed neg num).natAbs ≤ (valueOf b * den - signed neg num).natAbs ∧
      ((valueOf r * den - signed neg num).natAbs = (valueOf b * den - signed neg num).natAbs →
        valueOf b ≠ valueOf r → r.toNat % 2 = 0)

/-- The address of the register at an offset of the window (R17, R23). -/
def windowAddr (cfg : Config) (o : BitVec 12) : Word := cfg.regPage ++ o

/-- The offsets of the argument registers (R23, R29, R31 to R35). -/
def isArgOffset (o : Nat) : Bool := decide (o % 4 = 0) && (decide (o = 0x014) || (decide (0x020 ≤ o) && decide (o < 0x068)))

/-- The word-aligned offsets the map R23 does not map (R19). -/
def isUnmappedOffset (cfg : Config) (o : Nat) : Bool :=
  decide (o % 4 = 0) &&
  (decide (o = 0x01C) || (decide (0x068 ≤ o) && decide (o ≤ 0x07C)) || (decide (0x0A8 ≤ o) && decide (o ≤ 0x0FC)) ||
   (decide (0x100 ≤ o) && decide (o < 0x500) &&
    (decide (cfg.stereoCtx ≤ (o - 0x100) / 0x40) || decide (0x28 ≤ (o - 0x100) % 0x40))) ||
   (decide (0x500 ≤ o) && decide (o < 0x700) &&
    (decide (cfg.monoCtx ≤ (o - 0x500) / 0x20) || decide (0x14 ≤ (o - 0x500) % 0x20))) ||
   decide (0x700 ≤ o))

/-- Every smoothing gain is valid (R39). -/
def State.gainsValid (s : State) : Prop :=
  (∀ c : Fin 16, (∀ j : Fin 8, validGain s.ss[c].inp[j] = true) ∧ ∀ k : Fin 2, validGain s.ss[c].out[k] = true) ∧
  ∀ c : Fin 16, (∀ k : Fin 4, validGain s.ms[c].inp[k] = true) ∧ validGain s.ms[c].out = true

/-- What holds of a running command: it is one that runs, it was accepted and its arguments are unchanged (R21), its frame
index is within its count, and DONE and ERR are 0 (R27). -/
def State.runSound (s : State) : Prop :=
  ∀ r, s.run = some r →
    r.instr.runs = true ∧ r.instr.accepted s = true ∧ r.frame ≤ s.args.n ∧ s.done = false ∧ s.err = false

/-- The error record holds a code exactly when ERR is 1, and an address only then (R27, R121). -/
def State.recordSound (s : State) : Prop :=
  (s.errCode = .none ↔ s.err = false) ∧ (s.err = false → s.errAddr = 0)

/-- The invariant of the machine. -/
def State.Inv (s : State) : Prop :=
  s.cfg.valid = true ∧ s.mem.wf = true ∧ s.mem.inSpace = true ∧ s.gainsValid ∧ s.runSound ∧ s.recordSound

end Sys2Proof.Machine
end

