-- ==== Sys2Proof/Certificates/Slice0/Obligations.lean ====
section
/-! DEFINITION. The statements about stereo_mixer_engine for the provers. Each docstring names the rules it states or rests on. -/

open Sys2Proof Sys2Proof.Machine

/-! ## Encoding -/

/-- R78's legal and illegal example words, each with the command it is, or none. -/
def Obligations.ExampleWordsDecodeAsListed : Prop :=
  decode 0x00000001 = some (.sinit 0) ∧ decode 0x00000002 = some (.smix 0 false) ∧
  decode 0x00000102 = some (.smix 0 true) ∧ decode 0x0000F002 = some (.smix 15 false) ∧
  decode 0x00001104 = some (.mmix 1 true) ∧ decode 0x00000011 = some .fxdec ∧ decode 0x00000021 = some .p2s16 ∧
  decode 0x00000024 = some .dilv ∧ decode 0x00000000 = none ∧ decode 0x00000101 = none ∧ decode 0x00001010 = none ∧
  decode 0x00000202 = none ∧ decode 0x00010002 = none

/-- R67 to R70: the decoder reads a word as a command exactly when the word is that command's encoding; so no bit of a
legal word is dropped, and no illegal word is read as a command. -/
def Obligations.DecodeReadsExactlyTheEncodedWords : Prop :=
  ∀ (w : Word) (i : Instr), decode w = some i ↔ w = encode i

/-! ## Steps and the write of CMD -/

/-- The model's own order of moves (log entry 1): the oldest pending input is served; with none pending, an IDLE machine
waits (R142) and a RUNNING engine that is not stuck takes a turn (R146). -/
def Obligations.StepServesOldestInput : Prop :=
  (∀ (s : State) (e : Event) (es : List Event), s.events = e :: es → step s = serve { s with events := es } e) ∧
  (∀ s : State, s.events = [] → s.run = none → step s = .next s) ∧
  (∀ (s : State) (r : Run), s.events = [] → s.run = some r → r.fate ≠ .noMargin → r.fate ≠ .noResponse →
    step s = .next (engineTurn s))

/-- R28, R67: a write of CMD while IDLE whose word decodes runs exactly that command, on the state in which DONE, ERR,
ERRCODE and ERRADDR have become 0 and the write is no longer pending.
Inputs are taken from `events` (log entries 1, 2). -/
def Obligations.CmdWriteRunsDecodedCommand : Prop :=
  ∀ (s : State) (w : Word) (i : Instr) (es : List Event),
    s.events = .write (windowAddr s.cfg 0x010) .word w :: es → s.run = none → decode w = some i →
    step s = exec i { s with events := es, reply := .ok, done := false, err := false, errCode := .none, errAddr := 0 }

/-- R73: a word with another OPC, a reserved bit set, FX = 1 where FX is undefined or CTX ≠ 0 where CTX is unused is
no command, and a write to CMD of any word that is no command is rejected with ERR_BADOP and does nothing else. (`breaches`
is the model's own record.) -/
def Obligations.IllegalWordsAreRejected : Prop :=
  (∀ w : Word,
    (w.extractLsb' 0 8 ∉ [0x01#8, 0x02#8, 0x03#8, 0x04#8, 0x10#8, 0x11#8, 0x20#8, 0x21#8, 0x22#8, 0x23#8, 0x24#8] ∨
      w.extractLsb' 9 3 ≠ 0 ∨ w.extractLsb' 16 16 ≠ 0 ∨
      (w.getLsbD 8 = true ∧ w.extractLsb' 0 8 ≠ 0x02#8 ∧ w.extractLsb' 0 8 ≠ 0x04#8) ∨
      (w.extractLsb' 12 4 ≠ 0 ∧ w.extractLsb' 0 8 ∉ [0x01#8, 0x02#8, 0x03#8, 0x04#8])) ↔ decode w = none) ∧
  ∀ (s : State) (w : Word), s.run = none → decode w = none →
    ∃ b, serve s (.write (windowAddr s.cfg 0x010) .word w) = .next
      { s with reply := .ok, done := true, err := true, errCode := .badOp, errAddr := 0, breaches := b }

/-- R74: without the layout option the words of ILV and DILV are rejected with ERR_BADOP like any illegal word. (`breaches`
is the model's own record.) -/
def Obligations.LayoutWordsAreIllegalWithoutTheOption : Prop :=
  ∀ (s : State) (w : Word), w = 0x00000023 ∨ w = 0x00000024 → s.cfg.layoutOps = false → s.run = none →
    ∃ b, serve s (.write (windowAddr s.cfg 0x010) .word w) = .next
      { s with reply := .ok, done := true, err := true, errCode := .badOp, errAddr := 0, breaches := b }

/-! ## The register window -/

/-- R21, R26: while BUSY a write to CMD or an argument register changes nothing but WIGN; a STATUS write takes effect; every
register reads its current value. BUSY or IDLE, a CTRL write without SRESET sets IRQ_EN to bit 0 and changes nothing else. -/
def Obligations.BusyLockIgnoresWrites : Prop :=
  (∀ (s : State) (v : Word), v.getLsbD 1 = false →
    serve s (.write (windowAddr s.cfg 0x008) .word v) = .next { s with irqEn := v.getLsbD 0, reply := .ok }) ∧
  ∀ (s : State) (o : BitVec 12) (v : Word), s.busy = true →
    (o = 0x010 ∨ isArgOffset o.toNat = true →
      serve s (.write (windowAddr s.cfg o) .word v) = .next { s with wign := true, reply := .ok }) ∧
    (v.getLsbD 2 = false →
      serve s (.write (windowAddr s.cfg 0x00C) .word v) =
        .next { s with done := s.done && !v.getLsbD 1, wign := s.wign && !v.getLsbD 3, reply := .ok }) ∧
    (o.toNat % 4 = 0 →
      serve s (.read (windowAddr s.cfg o) .word) = .next { s with reply := .data (readReg s (regAt s.cfg o.toNat)) })

/-- R18: an access in the window that is not a 32-bit access at a multiple of 4 gets an error response and changes no state
of the block; a read returns no data. That an access wider than 32 bits is one of these is the model's choice (log
entry 27). (`breaches` is the model's own record.) -/
def Obligations.OtherAccessesGetAnErrorResponse : Prop :=
  ∀ (s : State) (o : BitVec 12) (size : AccessSize) (v : Word), size ≠ .word ∨ o.toNat % 4 ≠ 0 →
    ∃ b, serve s (.read (windowAddr s.cfg o) size) = .next { s with reply := .error, breaches := b } ∧
      serve s (.write (windowAddr s.cfg o) size v) = .next { s with reply := .error, breaches := b }

/-- R19: an unmapped offset reads 0 and ignores writes, without an error; the contexts the configuration lacks are unmapped. -/
def Obligations.UnmappedOffsetsReadZero : Prop :=
  ∀ (s : State) (o : BitVec 12) (v : Word), isUnmappedOffset s.cfg o.toNat = true →
    serve s (.read (windowAddr s.cfg o) .word) = .next { s with reply := .data 0 } ∧
    serve s (.write (windowAddr s.cfg o) .word v) = .next { s with reply := .ok }

/-- R23, R29, R31 to R35: while IDLE a write to an argument register at its offset changes that argument alone; the register
then reads what was written, every other argument register reads as before, and nothing else of the state changes. -/
def Obligations.ArgumentRegistersHoldWhatIsWritten : Prop :=
  ∀ (s : State) (v : Word), s.busy = false →
    (let sets := fun (o : BitVec 12) (a : Args) =>
        serve s (.write (windowAddr s.cfg o) .word v) = .next { s with args := a, reply := .ok };
      sets 0x014 { s.args with count := v } ∧
      (∀ k : Fin 4, sets (BitVec.ofNat 12 (0x020 + 4 * k.val)) { s.args with inp := s.args.inp.set k v }) ∧
      (∀ k : Fin 2, sets (BitVec.ofNat 12 (0x030 + 4 * k.val)) { s.args with out := s.args.out.set k v }) ∧
      sets 0x038 { s.args with imtr := v } ∧ sets 0x03C { s.args with omtr := v } ∧
      (∀ j : Fin 8, sets (BitVec.ofNat 12 (0x040 + 4 * j.val)) { s.args with gin := s.args.gin.set j v }) ∧
      ∀ k : Fin 2, sets (BitVec.ofNat 12 (0x060 + 4 * k.val)) { s.args with gout := s.args.gout.set k v }) ∧
    ∀ o : BitVec 12, isArgOffset o.toNat = true →
      ∃ a : Args,
        serve s (.write (windowAddr s.cfg o) .word v) = .next { s with args := a, reply := .ok } ∧
        (∀ o' : BitVec 12, isArgOffset o'.toNat = true →
          serve { s with args := a } (.read (windowAddr s.cfg o') .word) =
            .next { s with
              args := a, reply := .data (if o' = o then v else readReg s (regAt s.cfg o'.toNat)) })

/-- R20, R23: a write to ID, CAPS, ERRADDR, a PEAK register or a smoothing context is ignored without an error. -/
def Obligations.ReadOnlyRegistersIgnoreWrites : Prop :=
  ∀ (s : State) (o : BitVec 12) (v : Word), o.toNat % 4 = 0 →
    o = 0x000 ∨ o = 0x004 ∨ o = 0x018 ∨ (0x080 ≤ o.toNat ∧ o.toNat < 0x700) →
    serve s (.write (windowAddr s.cfg o) .word v) = .next { s with reply := .ok }

/-- R23 to R28, R30, R36 to R38, R121: what every register but the arguments reads, each at its offset: ID, CAPS, CTRL with
IRQ_EN in bit 0, STATUS with each field in its bits, CMD, ERRADDR, PEAK_*, and the gains of every configured context.
What a STATUS read does to `unseen` is left to StatusReadAcquires (log entry 15). -/
def Obligations.ResultRegistersReadAtTheirOffsets : Prop :=
  ∀ s : State, s.cfg.valid = true →
    serve s (.read (windowAddr s.cfg 0x000) .word) = .next { s with reply := .data 0x534D5831 } ∧
    serve s (.read (windowAddr s.cfg 0x004) .word) = .next { s with
      reply := .data (BitVec.ofNat 32 (s.cfg.stereoCtx + 2 ^ 8 * s.cfg.monoCtx + if s.cfg.layoutOps then 2 ^ 16 else 0)) } ∧
    serve s (.read (windowAddr s.cfg 0x008) .word) = .next { s with reply := .data (if s.irqEn then 1 else 0) } ∧
    (∃ u, serve s (.read (windowAddr s.cfg 0x00C) .word) = .next { s with
      unseen := u
      reply := .data (BitVec.ofNat 32 ((if s.busy then 1 else 0) + (if s.done then 2 else 0) + (if s.err then 4 else 0) +
        (if s.wign then 8 else 0) + 16 * (match s.errCode with
          | .none => 0
          | .badOp => 1
          | .ctx => 2
          | .count => 3
          | .gain => 4
          | .null => 5
          | .align => 6
          | .range => 7
          | .bus => 8))) }) ∧
    serve s (.read (windowAddr s.cfg 0x010) .word) = .next { s with reply := .data 0 } ∧
    serve s (.read (windowAddr s.cfg 0x018) .word) = .next { s with reply := .data s.errAddr } ∧
    (∀ j : Fin 8, serve s (.read (windowAddr s.cfg (BitVec.ofNat 12 (0x080 + 4 * j.val))) .word) =
      .next { s with reply := .data s.peakIn[j] }) ∧
    (∀ k : Fin 2, serve s (.read (windowAddr s.cfg (BitVec.ofNat 12 (0x0A0 + 4 * k.val))) .word) =
      .next { s with reply := .data s.peakOut[k] }) ∧
    (∀ c : BitVec 4, c.toNat < s.cfg.stereoCtx →
      (∀ j : Fin 8, serve s (.read (windowAddr s.cfg (BitVec.ofNat 12 (0x100 + 0x40 * c.toNat + 4 * j.val))) .word) =
        .next { s with reply := .data (s.stereo c).inp[j] }) ∧
      ∀ k : Fin 2, serve s (.read (windowAddr s.cfg (BitVec.ofNat 12 (0x120 + 0x40 * c.toNat + 4 * k.val))) .word) =
        .next { s with reply := .data (s.stereo c).out[k] }) ∧
    (∀ c : BitVec 4, c.toNat < s.cfg.monoCtx →
      (∀ k : Fin 4, serve s (.read (windowAddr s.cfg (BitVec.ofNat 12 (0x500 + 0x20 * c.toNat + 4 * k.val))) .word) =
        .next { s with reply := .data (s.mono c).inp[k] }) ∧
      serve s (.read (windowAddr s.cfg (BitVec.ofNat 12 (0x510 + 0x20 * c.toNat))) .word) =
        .next { s with reply := .data (s.mono c).out })

/-- R27: a write to STATUS clears DONE, WIGN, and ERR with ERRCODE and ERRADDR, where its bit is 1; writing 0 there leaves
them, and no other field changes. -/
def Obligations.StatusWritesClearByOne : Prop :=
  ∀ (s : State) (v : Word),
    serve s (.write (windowAddr s.cfg 0x00C) .word v) = .next
      { s with
        done := if v.getLsbD 1 then false else s.done
        wign := if v.getLsbD 3 then false else s.wign
        err := if v.getLsbD 2 then false else s.err
        errCode := if v.getLsbD 2 then .none else s.errCode
        errAddr := if v.getLsbD 2 then 0 else s.errAddr
        reply := .ok }

/-- R132: irq is 1 exactly when IRQ_EN is 1 and DONE or ERR is 1; in the STATUS and CTRL words these are bits 1 and 2, and
bit 0. WIGN does not drive it. -/
def Obligations.IrqFollowsDoneAndErr : Prop :=
  ∀ s : State, s.irq =
    ((readReg s .ctrl).getLsbD 0 && ((readReg s .status).getLsbD 1 || (readReg s .status).getLsbD 2))

/-! ## Reset -/

/-- R42: what every piece of state holds after reset, in the reference configuration. -/
def Obligations.ResetTableHolds : Prop :=
  readReg State.reset .id = 0x534D5831 ∧ readReg State.reset .caps = 0x00010101 ∧ readReg State.reset .ctrl = 0 ∧
  readReg State.reset .status = 0 ∧ readReg State.reset .errAddr = 0 ∧ State.reset.args.count = 0 ∧
  (∀ k : Fin 4, State.reset.args.inp[k] = 0) ∧ (∀ k : Fin 2, State.reset.args.out[k] = 0) ∧
  State.reset.args.imtr = 0 ∧ State.reset.args.omtr = 0 ∧ (∀ j : Fin 8, State.reset.args.gin[j] = 0) ∧
  (∀ k : Fin 2, State.reset.args.gout[k] = 0) ∧ (∀ j : Fin 8, State.reset.peakIn[j] = 0) ∧
  (∀ k : Fin 2, State.reset.peakOut[k] = 0) ∧
  (∀ c : BitVec 4, (∀ j : Fin 8, (State.reset.stereo c).inp[j] = 0x3F800000) ∧
    ∀ k : Fin 2, (State.reset.stereo c).out[k] = 0x3F800000) ∧
  (∀ c : BitVec 4, (∀ k : Fin 4, (State.reset.mono c).inp[k] = 0x3F800000) ∧
    (State.reset.mono c).out = 0x3F800000) ∧
  State.reset.run = none ∧ State.reset.irq = false

/-- R140, R141: the reset input and a CTRL write with SRESET = 1, RUNNING or IDLE, put every register and context at its
reset value and the engine in IDLE; memory outside the "out" regions of an abandoned command is kept, all of it when
IDLE; SRESET wins over bit 0 of the same write.
What is not the block's is kept (log entry 28); an abandoned "out" region is free and not yet ordered with the
host (log entries 9, 31). -/
def Obligations.ResetRestoresTheTable : Prop :=
  ∀ s : State, ∃ (m : Memory) (d : Nat) (u : List Span),
    serve s .reset = .next { State.reset with
      cfg := s.cfg, mem := m, platform := s.platform, unseen := u, events := s.events, reply := s.reply,
      draws := d, breaches := s.breaches } ∧
    (∀ v : Word, v.getLsbD 1 = true →
      serve s (.write (windowAddr s.cfg 0x008) .word v) = .next { State.reset with
        cfg := s.cfg, mem := m, platform := s.platform, unseen := u, events := s.events, reply := .ok,
        draws := d, breaches := s.breaches }) ∧
    (s.run = none → m = s.mem ∧ u = s.unseen) ∧
    ∀ r, s.run = some r → u = outSpans (s.runRegions r) ++ s.unseen ∧ ∀ a, inSpans (outSpans (s.runRegions r)) a = false → m.readByte a = s.mem.readByte a

/-! ## Rejection -/

/-- R120, R123, R125, R127: every command answers a next state. A command that meets the seven conditions enters RUNNING,
or completes if it is SINIT or MINIT; any other only records one of the errors 1 to 7. The record of a rejection, which
the next six statements name `State.reject`, is DONE, ERR, the code and the address. (`breaches` is the model's own
record, log entry 16.) -/
def Obligations.CommandIsAcceptedOrPreciselyRejected : Prop :=
  (∀ (s : State) (code : ErrCode) (addr : Word), ∃ b,
    s.reject code addr = { s with done := true, err := true, errCode := code, errAddr := addr, breaches := b }) ∧
  ∀ (i : Instr) (s : State),
    (i.accepted s = true →
      ∃ t, exec i s = .next t ∧ (i.runs = true → t.busy = true) ∧ (i.runs = false → t.run = none ∧ t.done = true) ∧
        t.err = s.err ∧ t.errCode = s.errCode ∧ t.errAddr = s.errAddr) ∧
    (i.accepted s = false →
      ∃ code addr b, code ≠ .none ∧ code ≠ .bus ∧
        exec i s = .next { s with done := true, err := true, errCode := code, errAddr := addr, breaches := b })

/-- R121, R122, R123: a context the configuration lacks is ERR_CTX with ERRADDR 0, whatever else is wrong. -/
def Obligations.MissingContextIsErrCtx : Prop :=
  ∀ (s : State) (ctx : BitVec 4) (fx : Bool),
    (s.cfg.stereoCtx ≤ ctx.toNat →
      exec (.sinit ctx) s = .next (s.reject .ctx 0) ∧ exec (.smix ctx fx) s = .next (s.reject .ctx 0)) ∧
    (s.cfg.monoCtx ≤ ctx.toNat →
      exec (.minit ctx) s = .next (s.reject .ctx 0) ∧ exec (.mmix ctx fx) s = .next (s.reject .ctx 0))

/-- R121, R122, R123: a COUNT outside the command's range, all 32 bits compared (R29), is ERR_COUNT with ERRADDR 0,
whatever is wrong with gains and pointers. -/
def Obligations.CountOutOfRangeIsErrCount : Prop :=
  ∀ (s : State) (ctx : BitVec 4) (fx : Bool),
    (ctx.toNat < s.cfg.stereoCtx → s.args.count.toNat < 2 ∨ 2048 < s.args.count.toNat →
      exec (.smix ctx fx) s = .next (s.reject .count 0)) ∧
    (ctx.toNat < s.cfg.monoCtx →
      s.args.count.toNat < 8 ∨ 2048 < s.args.count.toNat ∨ s.args.count.toNat % 4 ≠ 0 →
      exec (.mmix ctx fx) s = .next (s.reject .count 0)) ∧
    (s.args.count.toNat < 1 ∨ 4096 < s.args.count.toNat →
      exec .fxenc s = .next (s.reject .count 0) ∧ exec .fxdec s = .next (s.reject .count 0)) ∧
    (s.args.count.toNat < 4 ∨ 2048 < s.args.count.toNat →
      exec .f2s16 s = .next (s.reject .count 0) ∧ exec .p2s16 s = .next (s.reject .count 0) ∧
      exec .s162f s = .next (s.reject .count 0)) ∧
    (s.cfg.layoutOps = true → s.args.count.toNat < 1 ∨ 2048 < s.args.count.toNat →
      exec .ilv s = .next (s.reject .count 0) ∧ exec .dilv s = .next (s.reject .count 0))

/-- R82, R121, R122, R123: the first invalid gain register a mixer reads is ERR_GAIN with that register's offset, null
slots included, whatever is wrong with pointers. -/
def Obligations.InvalidGainIsErrGain : Prop :=
  ∀ (s : State) (ctx : BitVec 4) (fx : Bool),
    (ctx.toNat < s.cfg.stereoCtx → 2 ≤ s.args.count.toNat → s.args.count.toNat ≤ 2048 →
      (∀ j : Fin 8, (∀ l : Fin 8, l < j → validGain s.args.gin[l] = true) → validGain s.args.gin[j] = false →
        exec (.smix ctx fx) s = .next (s.reject .gain (BitVec.ofNat 32 (0x040 + 4 * j.val)))) ∧
      ((∀ l : Fin 8, validGain s.args.gin[l] = true) → validGain s.args.gout[0] = false →
        exec (.smix ctx fx) s = .next (s.reject .gain 0x060)) ∧
      ((∀ l : Fin 8, validGain s.args.gin[l] = true) → validGain s.args.gout[0] = true →
        validGain s.args.gout[1] = false → exec (.smix ctx fx) s = .next (s.reject .gain 0x064))) ∧
    (ctx.toNat < s.cfg.monoCtx → 8 ≤ s.args.count.toNat → s.args.count.toNat ≤ 2048 → s.args.count.toNat % 4 = 0 →
      (∀ j : Fin 4, (∀ l : Fin 4, l < j → validGain s.args.gin[l.val] = true) → validGain s.args.gin[j.val] = false →
        exec (.mmix ctx fx) s = .next (s.reject .gain (BitVec.ofNat 32 (0x040 + 4 * j.val)))) ∧
      ((∀ l : Fin 4, validGain s.args.gin[l.val] = true) → validGain s.args.gout[0] = false →
        exec (.mmix ctx fx) s = .next (s.reject .gain 0x060)))

/-- R50, R72, R121, R122, R123: the pointers each command reads, each with its register's offset, its value, its size in
bytes, its element size, whether it is an "out" pointer and whether it is required, in check order; and with the checks
before it passed, the first required pointer that is 0 is ERR_NULL with that register's offset. -/
def Obligations.NullPointerIsErrNull : Prop :=
  (∀ (a : Args) (ctx : BitVec 4) (fx : Bool),
    let n := a.count.toNat
    let row := fun (r : Region) => (r.reg, r.ptr, r.bytes, r.elem, r.out, r.required)
    regionsOf (.sinit ctx) a = [] ∧ regionsOf (.minit ctx) a = [] ∧
    (regionsOf (.smix ctx fx) a).map row =
      [ (0x020#32, a.inp[0], 8 * n, 4, false, false), (0x024#32, a.inp[1], 8 * n, 4, false, false),
        (0x028#32, a.inp[2], 8 * n, 4, false, false), (0x02C#32, a.inp[3], 8 * n, 4, false, false),
        (0x030#32, a.out[0], if a.out[1] = 0 then 8 * n else 4 * n, 4, true, true),
        (0x034#32, a.out[1], 4 * n, 4, true, false), (0x038#32, a.imtr, 32, 4, true, false),
        (0x03C#32, a.omtr, 8, 4, true, false) ] ∧
    (regionsOf (.mmix ctx fx) a).map row =
      [ (0x020#32, a.inp[0], 4 * n, 4, false, false), (0x024#32, a.inp[1], 4 * n, 4, false, false),
        (0x028#32, a.inp[2], 4 * n, 4, false, false), (0x02C#32, a.inp[3], 4 * n, 4, false, false),
        (0x030#32, a.out[0], 4 * n, 4, true, true) ] ∧
    (regionsOf .fxenc a).map row =
      [(0x020#32, a.inp[0], 4 * n, 4, false, true), (0x030#32, a.out[0], 4 * n, 4, true, true)] ∧
    (regionsOf .fxdec a).map row =
      [(0x020#32, a.inp[0], 4 * n, 4, false, true), (0x030#32, a.out[0], 4 * n, 4, true, true)] ∧
    (regionsOf .f2s16 a).map row =
      [(0x020#32, a.inp[0], 8 * n, 4, false, true), (0x030#32, a.out[0], 4 * n, 2, true, true)] ∧
    (regionsOf .p2s16 a).map row =
      [ (0x020#32, a.inp[0], 4 * n, 4, false, true), (0x024#32, a.inp[1], 4 * n, 4, false, true),
        (0x030#32, a.out[0], 4 * n, 2, true, true) ] ∧
    (regionsOf .s162f a).map row =
      [(0x020#32, a.inp[0], 4 * n, 2, false, true), (0x030#32, a.out[0], 8 * n, 4, true, true)] ∧
    (regionsOf .ilv a).map row =
      [ (0x020#32, a.inp[0], 4 * n, 4, false, true), (0x024#32, a.inp[1], 4 * n, 4, false, true),
        (0x030#32, a.out[0], 8 * n, 4, true, true) ] ∧
    (regionsOf .dilv a).map row =
      [ (0x020#32, a.inp[0], 8 * n, 4, false, true), (0x030#32, a.out[0], 4 * n, 4, true, true),
        (0x034#32, a.out[1], 4 * n, 4, true, true) ]) ∧
  (∀ (i : Instr) (s : State),
    i.wellFormed s.cfg = true → countLegal i s.args.n = true → gainsLegal i s.args = true →
    (i ∈ [Instr.fxenc, .fxdec, .f2s16, .p2s16, .s162f, .ilv, .dilv] → s.args.inp[0] = 0 →
      exec i s = .next (s.reject .null 0x020)) ∧
    (i = .p2s16 ∨ i = .ilv → s.args.inp[0] ≠ 0 → s.args.inp[1] = 0 → exec i s = .next (s.reject .null 0x024)) ∧
    (i.runs = true → (∀ q ∈ regionsOf i s.args, q.out = false → q.required = true → q.ptr ≠ 0) →
      s.args.out[0] = 0 → exec i s = .next (s.reject .null 0x030)) ∧
    (i = .dilv → s.args.inp[0] ≠ 0 → s.args.out[0] ≠ 0 → s.args.out[1] = 0 →
      exec i s = .next (s.reject .null 0x034))) ∧
  ∀ (i : Instr) (s : State) (before after : List Region) (r : Region),
    i.wellFormed s.cfg = true → countLegal i s.args.n = true → gainsLegal i s.args = true →
    regionsOf i s.args = before ++ r :: after → (∀ q ∈ before, q.required = true → q.ptr ≠ 0) →
    r.required = true → r.ptr = 0 → exec i s = .next (s.reject .null r.reg)

/-- R48, R121, R122, R123: with the checks before it passed, the first used pointer that is no multiple of its element size
is ERR_ALIGN with that pointer's value. -/
def Obligations.MisalignedPointerIsErrAlign : Prop :=
  ∀ (i : Instr) (s : State) (before after : List Region) (r : Region),
    i.wellFormed s.cfg = true → countLegal i s.args.n = true → gainsLegal i s.args = true →
    (∀ q ∈ regionsOf i s.args, q.required = true → q.ptr ≠ 0) →
    regionsOf i s.args = before ++ r :: after → (∀ q ∈ before, q.ptr.toNat % q.elem = 0) →
    r.ptr.toNat % r.elem ≠ 0 → exec i s = .next (s.reject .align r.ptr)

/-- R49, R121, R122, R123: with the checks before it passed, the first used region that passes 0xFFFFFFFF is ERR_RANGE with
its pointer's value. -/
def Obligations.RegionPastTheTopIsErrRange : Prop :=
  ∀ (i : Instr) (s : State) (before after : List Region) (r : Region),
    i.wellFormed s.cfg = true → countLegal i s.args.n = true → gainsLegal i s.args = true →
    (∀ q ∈ regionsOf i s.args, q.required = true → q.ptr ≠ 0) →
    (∀ q ∈ regionsOf i s.args, q.ptr.toNat % q.elem = 0) →
    regionsOf i s.args = before ++ r :: after →
    (∀ q ∈ before, q.ptr = 0 ∨ q.ptr.toNat + q.elem * q.count ≤ 2 ^ 32) →
    r.ptr ≠ 0 → 2 ^ 32 < r.ptr.toNat + r.elem * r.count → exec i s = .next (s.reject .range r.ptr)

/-! ## The commands -/

/-- R98, R126: SINIT sets every gain of its context to 1.0 and completes in its step; every other context, every register,
and memory are unchanged. -/
def Obligations.SinitSetsItsContextToOne : Prop :=
  ∀ (s : State) (ctx : BitVec 4), s.run = none → ctx.toNat < s.cfg.stereoCtx →
    ∃ t, exec (.sinit ctx) s = .next t ∧ t = { s with done := true, ss := t.ss } ∧
      (∀ j : Fin 8, (t.stereo ctx).inp[j] = 0x3F800000) ∧ (∀ k : Fin 2, (t.stereo ctx).out[k] = 0x3F800000) ∧
      ∀ c, c ≠ ctx → t.stereo c = s.stereo c

/-- R106, R126: MINIT sets every gain of its context to 1.0 and completes in its step; every other context, every register,
and memory are unchanged. -/
def Obligations.MinitSetsItsContextToOne : Prop :=
  ∀ (s : State) (ctx : BitVec 4), s.run = none → ctx.toNat < s.cfg.monoCtx →
    ∃ t, exec (.minit ctx) s = .next t ∧ t = { s with done := true, ms := t.ms } ∧
      (∀ k : Fin 4, (t.mono ctx).inp[k] = 0x3F800000) ∧ (t.mono ctx).out = 0x3F800000 ∧
      ∀ c, c ≠ ctx → t.mono c = s.mono c

/-- R99 to R101, R127, R128: an accepted, undisturbed SMIX enters RUNNING, and its n frames and completion leave: every
output word the mixed, gained value of its frame and side (8.24 with FX), at the layout's address; the meters in
PEAK_* and, where their pointers are not 0, in memory; SS[CTX] the targets; DONE = 1; every other context, every
register, and every byte outside the "out" regions unchanged.
Frames and completion are turns of the engine (log entry 7); `unseen` is the model's own (log entry 15); a meter
region that shares a byte with a source is an overlap (log entry 29). -/
def Obligations.SmixMixesTheBlock : Prop :=
  ∀ (s : State) (ctx : BitVec 4) (fx : Bool), s.run = none → (Instr.smix ctx fx).accepted s = true →
    (Instr.smix ctx fx).undisturbed s = true →
    ∃ t u, exec (.smix ctx fx) s = .next t ∧ t.busy = true ∧ engineTurns (s.args.n + 1) t = u ∧
      u = { s with
        mem := u.mem, peakIn := u.peakIn, peakOut := u.peakOut, ss := u.ss, done := true
        unseen := outSpans (smixRegions s.args) ++ s.unseen } ∧
      (∀ i, i < s.args.n → ∀ side : Fin 2,
        u.mem.readWord (smixOutAddr s.args i side) = outWord fx (smixOut s ctx i side)) ∧
      (∀ j : Fin 8, u.peakIn[j] = b32 (meterIn s ctx j s.args.n)) ∧
      (∀ k : Fin 2, u.peakOut[k] = b32 (meterOut s ctx k s.args.n)) ∧
      (s.args.imtr ≠ 0 → ∀ j : Fin 8, u.mem.readWord (elemAddr s.args.imtr 4 j.val) = u.peakIn[j]) ∧
      (s.args.omtr ≠ 0 → ∀ k : Fin 2, u.mem.readWord (elemAddr s.args.omtr 4 k.val) = u.peakOut[k]) ∧
      u.stereo ctx = { inp := s.args.gin, out := s.args.gout } ∧ (∀ c, c ≠ ctx → u.stereo c = s.stereo c) ∧
      ∀ a, inSpans (outSpans (smixRegions s.args)) a = false → u.mem.readByte a = s.mem.readByte a

/-- R107, R108, R127, R128: an accepted, undisturbed MMIX enters RUNNING, and its n samples and completion leave: every
output word the mixed, gained value of its sample (8.24 with FX); MS[CTX] the targets; DONE = 1; every other context,
every register, PEAK_* among them, and every byte outside the output region unchanged.
Frames and completion are turns of the engine (log entry 7); `unseen` is the model's own (log entry 15). -/
def Obligations.MmixMixesTheBlock : Prop :=
  ∀ (s : State) (ctx : BitVec 4) (fx : Bool), s.run = none → (Instr.mmix ctx fx).accepted s = true →
    (Instr.mmix ctx fx).undisturbed s = true →
    ∃ t u, exec (.mmix ctx fx) s = .next t ∧ t.busy = true ∧ engineTurns (s.args.n + 1) t = u ∧
      u = { s with
        mem := u.mem, ms := u.ms, done := true, unseen := outSpans (mmixRegions s.args) ++ s.unseen } ∧
      (∀ i, i < s.args.n →
        u.mem.readWord (elemAddr s.args.out[0] 4 i) = outWord fx (mmixOut s ctx i)) ∧
      (∀ k : Fin 4, (u.mono ctx).inp[k] = s.args.gin[k.val]) ∧ (u.mono ctx).out = s.args.gout[0] ∧
      (∀ c, c ≠ ctx → u.mono c = s.mono c) ∧
      ∀ a, inSpans (outSpans (mmixRegions s.args)) a = false → u.mem.readByte a = s.mem.readByte a

/-- R111, R127, R128: an accepted, undisturbed FXENC leaves every output word FxEnc of its input word, in place or not, and
nothing else changed but DONE.
Frames and completion are turns of the engine (log entry 7); `unseen` is the model's own (log entry 15). -/
def Obligations.FxencEncodesEveryWord : Prop :=
  ∀ s : State, s.run = none → Instr.fxenc.accepted s = true → Instr.fxenc.undisturbed s = true →
    ∃ t m, exec .fxenc s = .next t ∧ t.busy = true ∧
      engineTurns (s.args.n + 1) t =
        { s with mem := m, done := true, unseen := outSpans (fxencRegions s.args) ++ s.unseen } ∧
      (∀ j, j < s.args.n →
        m.readWord (elemAddr s.args.out[0] 4 j) = fxEnc (s.mem.readWord (elemAddr s.args.inp[0] 4 j))) ∧
      ∀ a, inSpans (outSpans (fxencRegions s.args)) a = false → m.readByte a = s.mem.readByte a

/-- R112, R127, R128: an accepted, undisturbed FXDEC leaves every output word FxDec of its input word, in place or not, and
nothing else changed but DONE.
Frames and completion are turns of the engine (log entry 7); `unseen` is the model's own (log entry 15). -/
def Obligations.FxdecDecodesEveryWord : Prop :=
  ∀ s : State, s.run = none → Instr.fxdec.accepted s = true → Instr.fxdec.undisturbed s = true →
    ∃ t m, exec .fxdec s = .next t ∧ t.busy = true ∧
      engineTurns (s.args.n + 1) t =
        { s with mem := m, done := true, unseen := outSpans (fxdecRegions s.args) ++ s.unseen } ∧
      (∀ j, j < s.args.n →
        m.readWord (elemAddr s.args.out[0] 4 j) = b32 (fxDec (s.mem.readWord (elemAddr s.args.inp[0] 4 j)))) ∧
      ∀ a, inSpans (outSpans (fxdecRegions s.args)) a = false → m.readByte a = s.mem.readByte a

/-- R115, R127, R128: an accepted, undisturbed F2S16 leaves each of the 2n output halves S16Enc of its input word, and
nothing else changed but DONE.
Frames and completion are turns of the engine (log entry 7); `unseen` is the model's own (log entry 15). -/
def Obligations.F2s16EncodesEverySample : Prop :=
  ∀ s : State, s.run = none → Instr.f2s16.accepted s = true → Instr.f2s16.undisturbed s = true →
    ∃ t m, exec .f2s16 s = .next t ∧ t.busy = true ∧
      engineTurns (s.args.n + 1) t =
        { s with mem := m, done := true, unseen := outSpans (f2s16Regions s.args) ++ s.unseen } ∧
      (∀ j, j < 2 * s.args.n →
        m.readHalf (elemAddr s.args.out[0] 2 j) = s16Enc (s.mem.readWord (elemAddr s.args.inp[0] 4 j))) ∧
      ∀ a, inSpans (outSpans (f2s16Regions s.args)) a = false → m.readByte a = s.mem.readByte a

/-- R116, R127, R128: an accepted, undisturbed P2S16 leaves the output halves S16Enc of left and right by turns, and nothing
else changed but DONE.
Frames and completion are turns of the engine (log entry 7); `unseen` is the model's own (log entry 15). -/
def Obligations.P2s16InterleavesAndEncodes : Prop :=
  ∀ s : State, s.run = none → Instr.p2s16.accepted s = true → Instr.p2s16.undisturbed s = true →
    ∃ t m, exec .p2s16 s = .next t ∧ t.busy = true ∧
      engineTurns (s.args.n + 1) t =
        { s with mem := m, done := true, unseen := outSpans (p2s16Regions s.args) ++ s.unseen } ∧
      (∀ i, i < s.args.n →
        m.readHalf (s.args.out[0].toNat + 4 * i) = s16Enc (s.mem.readWord (elemAddr s.args.inp[0] 4 i)) ∧
        m.readHalf (s.args.out[0].toNat + 4 * i + 2) = s16Enc (s.mem.readWord (elemAddr s.args.inp[1] 4 i))) ∧
      ∀ a, inSpans (outSpans (p2s16Regions s.args)) a = false → m.readByte a = s.mem.readByte a

/-- R117, R127, R128: an accepted, undisturbed S162F leaves each of the 2n output words S16Dec of its input half, and nothing
else changed but DONE.
Frames and completion are turns of the engine (log entry 7); `unseen` is the model's own (log entry 15). -/
def Obligations.S162fDecodesEverySample : Prop :=
  ∀ s : State, s.run = none → Instr.s162f.accepted s = true → Instr.s162f.undisturbed s = true →
    ∃ t m, exec .s162f s = .next t ∧ t.busy = true ∧
      engineTurns (s.args.n + 1) t =
        { s with mem := m, done := true, unseen := outSpans (s162fRegions s.args) ++ s.unseen } ∧
      (∀ j, j < 2 * s.args.n →
        m.readWord (elemAddr s.args.out[0] 4 j) = b32 (s16Dec (s.mem.readHalf (elemAddr s.args.inp[0] 2 j)))) ∧
      ∀ a, inSpans (outSpans (s162fRegions s.args)) a = false → m.readByte a = s.mem.readByte a

/-- R118, R127, R128: an accepted, undisturbed ILV leaves a bit-exact interleaved copy, and nothing else changed but DONE.
Frames and completion are turns of the engine (log entry 7); `unseen` is the model's own (log entry 15). -/
def Obligations.IlvInterleavesBitExactly : Prop :=
  ∀ s : State, s.run = none → Instr.ilv.accepted s = true → Instr.ilv.undisturbed s = true →
    ∃ t m, exec .ilv s = .next t ∧ t.busy = true ∧
      engineTurns (s.args.n + 1) t =
        { s with mem := m, done := true, unseen := outSpans (ilvRegions s.args) ++ s.unseen } ∧
      (∀ i, i < s.args.n →
        m.readWord (s.args.out[0].toNat + 8 * i) = s.mem.readWord (elemAddr s.args.inp[0] 4 i) ∧
        m.readWord (s.args.out[0].toNat + 8 * i + 4) = s.mem.readWord (elemAddr s.args.inp[1] 4 i)) ∧
      ∀ a, inSpans (outSpans (ilvRegions s.args)) a = false → m.readByte a = s.mem.readByte a

/-- R119, R127, R128: an accepted, undisturbed DILV leaves bit-exact planar copies, and nothing else changed but DONE.
Frames and completion are turns of the engine (log entry 7); `unseen` is the model's own (log entry 15). -/
def Obligations.DilvSplitsBitExactly : Prop :=
  ∀ s : State, s.run = none → Instr.dilv.accepted s = true → Instr.dilv.undisturbed s = true →
    ∃ t m, exec .dilv s = .next t ∧ t.busy = true ∧
      engineTurns (s.args.n + 1) t =
        { s with mem := m, done := true, unseen := outSpans (dilvRegions s.args) ++ s.unseen } ∧
      (∀ i, i < s.args.n →
        m.readWord (elemAddr s.args.out[0] 4 i) = s.mem.readWord (s.args.inp[0].toNat + 8 * i) ∧
        m.readWord (elemAddr s.args.out[1] 4 i) = s.mem.readWord (s.args.inp[0].toNat + 8 * i + 4)) ∧
      ∀ a, inSpans (outSpans (dilvRegions s.args)) a = false → m.readByte a = s.mem.readByte a

/-- R104: an SMIX with all four slots null writes +0.0 (or 8.24 zero) to every output word, +0.0 to every meter, and only
SS[CTX], PEAK_*, the output region and the meter regions are written.
Frames and completion are turns of the engine (log entry 7); `unseen` is the model's own (log entry 15). -/
def Obligations.SilentInputsGiveSilence : Prop :=
  ∀ (s : State) (ctx : BitVec 4) (fx : Bool), s.run = none → s.gainsValid →
    (Instr.smix ctx fx).accepted s = true → (Instr.smix ctx fx).undisturbed s = true →
    (∀ k : Fin 4, s.args.inp[k] = 0) →
    ∃ t u, exec (.smix ctx fx) s = .next t ∧ engineTurns (s.args.n + 1) t = u ∧
      u = { s with
        mem := u.mem, peakIn := Vector.replicate 8 0, peakOut := Vector.replicate 2 0, ss := u.ss, done := true
        unseen := outSpans (smixRegions s.args) ++ s.unseen } ∧
      (∀ i, i < s.args.n → ∀ side : Fin 2, u.mem.readWord (smixOutAddr s.args i side) = 0) ∧
      (s.args.imtr ≠ 0 → ∀ j : Fin 8, u.mem.readWord (elemAddr s.args.imtr 4 j.val) = 0) ∧
      (s.args.omtr ≠ 0 → ∀ k : Fin 2, u.mem.readWord (elemAddr s.args.omtr 4 k.val) = 0) ∧
      (∀ c, c ≠ ctx → u.stereo c = s.stereo c) ∧
      ∀ a, inSpans (outSpans (smixRegions s.args)) a = false → u.mem.readByte a = s.mem.readByte a

/-- R105: when SS[CTX] already equals the targets, every ramp value is the target, and output sample i of side s is the sum
over the active slots of target gain times input, in slot order from +0.0, times the output target. -/
def Obligations.SettledGainsMixLinearly : Prop :=
  ∀ (s : State) (ctx : BitVec 4) (fx : Bool), (Instr.smix ctx fx).accepted s = true →
    s.stereo ctx = { inp := s.args.gin, out := s.args.gout } →
    ∀ i, i < s.args.n → ∀ side : Fin 2,
      (∀ k : Fin 4, smixGain s ctx i k side = s.args.gin[sideIndex k side]) ∧
      smixOut s ctx i side =
        fmul (accumulate (slots.map (fun k =>
          if s.args.inp[k] = 0 then none
          else some (fmul s.args.gin[sideIndex k side]
            (s.mem.readWord (s.args.inp[k].toNat + 4 * (2 * i + side.val))))))) s.args.gout[side]

/-! ## Ends, errors and broken duties -/

/-- R128, R129, R146: an accepted command that is not stuck ends after at most COUNT frames and one last turn: BUSY = 0 and
DONE = 1; ERR is set, with ERR_BUS, exactly when an access fails.
Turns and the fate of the accesses are the model's (log entries 7, 8). -/
def Obligations.AcceptedCommandEnds : Prop :=
  ∀ (i : Instr) (s : State), i.runs = true → i.accepted s = true → s.err = false →
    fateOf s.platform (regionsOf i s.args) s.draws ≠ .noMargin →
    fateOf s.platform (regionsOf i s.args) s.draws ≠ .noResponse →
    ∃ t, exec i s = .next t ∧ t.busy = true ∧
      let u := engineTurns (s.args.n + 1) t
      u.run = none ∧ u.done = true ∧ (u.err = true ↔ failures s.platform (regionsOf i s.args) ≠ []) ∧
      (u.err = true → u.errCode = .bus)

/-- R54, R58, R122, R129: when accesses of an accepted command fail, and those that can be met first with error responses, its
first turn aborts it: BUSY 0, DONE 1, ERR 1, ERRCODE 8, ERRADDR the address of one that can be met: a write is none when
a read of its frame fails, and a meter write is none when any read fails, since they are then never issued; the contexts, the arguments and, unless a host duty was
broken, PEAK_* unchanged; memory outside the "out" regions unchanged.
Turns, the fate of the accesses, freed PEAK_* and that every issued access has completed by then are the model's (log
entries 7, 8, 9, 17, 32). -/
def Obligations.BusErrorAborts : Prop :=
  ∀ (i : Instr) (s : State), i.runs = true → i.accepted s = true →
    marginsAdmitted s.platform (regionsOf i s.args) = true → failures s.platform (regionsOf i s.args) ≠ [] →
    (∀ f ∈ failures s.platform (regionsOf i s.args),
      (f.write = true → ∀ g ∈ failures s.platform (regionsOf i s.args), g.write = false →
        f.frame ≠ none ∧ f.frame ≠ g.frame) → f.kind ≠ .silent) →
    ∃ t, exec i s = .next t ∧ t.busy = true ∧
      let u := engineTurn t
      u.run = none ∧ u.done = true ∧ u.err = true ∧ u.errCode = .bus ∧
      (∃ f ∈ failures s.platform (regionsOf i s.args), u.errAddr.toNat = f.addr ∧
        (f.write = true → ∀ g ∈ failures s.platform (regionsOf i s.args), g.write = false →
          f.frame ≠ none ∧ f.frame ≠ g.frame)) ∧
      u.ss = s.ss ∧ u.ms = s.ms ∧ u.args = s.args ∧
      (overlaps (regionsOf i s.args) = false → meetsDevice s.platform (regionsOf i s.args) = false →
        u.peakIn = s.peakIn ∧ u.peakOut = s.peakOut) ∧
      ∀ a, inSpans (outSpans (regionsOf i s.args)) a = false → u.mem.readByte a = s.mem.readByte a

/-- R56 with U8: a command whose margins are not all admitted memory is accepted and never starts: with no input pending
the machine stops in the named stuck state, and no turn changes anything; a reset still ends it (R141).
The stuck state is the model's (log entry 13). -/
def Obligations.MissingMarginsLeaveTheCommandStuck : Prop :=
  ∀ (i : Instr) (s : State), i.runs = true → i.accepted s = true →
    marginsAdmitted s.platform (regionsOf i s.args) = false →
    ∃ t, exec i s = .next t ∧ t.busy = true ∧ (∀ k, engineTurns k t = t) ∧
      step { t with events := [] } = .fault .engineNoMargin ∧
      ∃ u, step { t with events := [.reset] } = .next u ∧ u.run = none

/-- R57, R148: whatever regions overlap, an accepted command whose accesses are answered completes; every register other than
PEAK_*, the contexts, and memory outside the "out" regions are as the command's rule leaves them.
Turns, and that the machine goes on with free values, are the model's (log entries 7, 10, 11, 15, 17). -/
def Obligations.OverlapSpoilsOnlyOutputsAndPeaks : Prop :=
  ∀ (i : Instr) (s : State), i.runs = true → i.accepted s = true → s.run = none →
    failures s.platform (regionsOf i s.args) = [] → marginsAdmitted s.platform (regionsOf i s.args) = true →
    ∃ t u, exec i s = .next t ∧ engineTurns (s.args.n + 1) t = u ∧
      u = { s with
        mem := u.mem, peakIn := u.peakIn, peakOut := u.peakOut, ss := u.ss, ms := u.ms, done := true
        unseen := outSpans (regionsOf i s.args) ++ s.unseen, draws := u.draws, breaches := u.breaches } ∧
      (∀ c, u.stereo c = match i with
        | .smix ctx _ => if c = ctx then { inp := s.args.gin, out := s.args.gout } else s.stereo c
        | _ => s.stereo c) ∧
      (∀ c, u.mono c = match i with
        | .mmix ctx _ =>
          if c = ctx then
            { inp := #v[s.args.gin[0], s.args.gin[1], s.args.gin[2], s.args.gin[3]], out := s.args.gout[0] }
          else s.mono c
        | _ => s.mono c) ∧
      ∀ a, inSpans (outSpans (regionsOf i s.args)) a = false → u.mem.readByte a = s.mem.readByte a

/-- R51, R148: from every state whose running command was accepted (`State.runSound`), whatever the host did to it before,
whatever its fate and whatever duties are broken, a turn of the engine, in a step or on its own, changes no byte outside
the command's "out" regions; so neither does any number of turns after the command's acceptance.
Turns are the model's (log entry 7). -/
def Obligations.EngineWritesOnlyOutRegions : Prop :=
  (∀ (s : State) (r : Run), s.runSound → s.run = some r → ∀ a, inSpans (outSpans (s.runRegions r)) a = false →
    (engineTurn s).mem.readByte a = s.mem.readByte a ∧
    ∀ t, s.events = [] → step s = .next t → t.mem.readByte a = s.mem.readByte a) ∧
  ∀ (i : Instr) (s t : State), s.run = none → exec i s = .next t → ∀ k a,
    inSpans (outSpans (regionsOf i s.args)) a = false → (engineTurns k t).mem.readByte a = s.mem.readByte a

/-- R60, R148, U7: a host store into any region of the running command, or a host load from one of its "out" regions, breaks
a duty: it is recorded and the command is marked. The mark stays until the command ends, and a marked command ends with
every byte of its "out" regions and every PEAK_* register a fresh free value. A load from elsewhere breaks no duty.
How a broken duty is held and what it frees is the model's (log entries 9, 12, 16, 17), turns are (log entry 7), and so
is `unseen` (log entry 15). -/
def Obligations.HostTouchIsRecorded : Prop :=
  (∀ (s : State) (r : Run) (addr : Word) (v : Byte), s.run = some r →
    (inSpans (usedSpans (s.runRegions r)) addr.toNat = true →
      ∃ t r', serve s (.store addr v) = .next t ∧ t.run = some r' ∧ r'.dirty = true ∧ .hostTouch ∈ t.breaches) ∧
    (inSpans (outSpans (s.runRegions r)) addr.toNat = true →
      ∃ t r', serve s (.load addr) = .next t ∧ t.run = some r' ∧ r'.dirty = true ∧ .hostTouch ∈ t.breaches) ∧
    (inSpans (outSpans (s.runRegions r)) addr.toNat = false → inSpans s.unseen addr.toNat = false →
      serve s (.load addr) = .next { s with reply := .byte (s.mem.readByte addr.toNat) })) ∧
  ∀ (s : State) (r : Run), s.run = some r → r.instr.runs = true → r.dirty = true →
    (r.fate = .completes → r.frame < s.args.n →
      ∃ r', (engineTurn s).run = some r' ∧ r'.dirty = true ∧ r'.instr = r.instr ∧ r'.frame = r.frame + 1) ∧
    ((r.fate = .completes ∧ s.args.n ≤ r.frame) ∨ (∃ addr, r.fate = .busError addr) →
      (engineTurn s).run = none ∧
      (∀ a, inSpans (outSpans (s.runRegions r)) a = true →
        ∃ d, s.draws ≤ d ∧ (engineTurn s).mem.readByte a = Config.freeByte d) ∧
      (∀ j : Fin 8, ∃ d, s.draws ≤ d ∧ (engineTurn s).peakIn[j] = Config.freeWord d) ∧
      ∀ k : Fin 2, ∃ d, s.draws ≤ d ∧ (engineTurn s).peakOut[k] = Config.freeWord d)

/-- R59: while IDLE, a STATUS read that sees DONE = 1 acquires: the host's loads then read what memory holds, and a host
store is what the byte then holds, with no other byte changed.
`unseen`, and that one acquire covers every write, are the model's (log entry 15). -/
def Obligations.StatusReadAcquires : Prop :=
  ∀ s : State, s.run = none → s.done = true →
    ∃ t, serve s (.read (windowAddr s.cfg 0x00C) .word) = .next t ∧
      t = { s with reply := .data s.statusWord, unseen := [] } ∧
      (∀ addr, serve t (.load addr) = .next { t with reply := .byte (s.mem.readByte addr.toNat) }) ∧
      ∀ addr v, ∃ u, serve t (.store addr v) = .next u ∧ u = { t with mem := u.mem, reply := .ok } ∧
        ∀ a, u.mem.readByte a = if a = addr.toNat then v else s.mem.readByte a

/-! ## Invariants and whole-machine rules -/

/-- The invariant of `State.Inv` holds at reset (R42). -/
def Obligations.ResetMeetsTheInvariant : Prop := State.reset.Inv

/-- Every step keeps the invariant: the configuration legal, memory canonical and within 32-bit addresses, every smoothing
gain valid (R39), a running command one that was accepted, with DONE and ERR 0 (R27), the error record sound. -/
def Obligations.EveryStepKeepsTheInvariant : Prop :=
  ∀ s t : State, s.Inv → step s = .next t → t.Inv

/-- Every step keeps memory in its canonical form, from any state. -/
def Obligations.EveryStepKeepsMemoryCanonical : Prop :=
  ∀ s t : State, s.mem.wf = true → step s = .next t → t.mem.wf = true

/-- R39: every element of every smoothing context stays a valid gain. -/
def Obligations.SmoothingGainsStayValid : Prop :=
  State.reset.gainsValid ∧ ∀ s t : State, s.gainsValid → s.runSound → step s = .next t → t.gainsValid

/-- R41, R145 (H8): no command writes an argument register, and acceptance or rejection leaves memory, PEAK_*, IRQ_EN, WIGN
and the pending inputs alone. Until its completion turn an accepted command whose accesses are answered is BUSY, and
PEAK_* and every context, its own included, are as before the command.
Turns are the model's (log entry 7). -/
def Obligations.ExecLeavesArgumentsAndMemory : Prop :=
  (∀ (i : Instr) (s : State), i.runs = true → i.accepted s = true → failures s.platform (regionsOf i s.args) = [] →
    marginsAdmitted s.platform (regionsOf i s.args) = true →
    ∃ t, exec i s = .next t ∧ ∀ k, k ≤ s.args.n →
      let u := engineTurns k t
      u.busy = true ∧ u.done = s.done ∧ u.peakIn = s.peakIn ∧ u.peakOut = s.peakOut ∧ u.ss = s.ss ∧ u.ms = s.ms) ∧
  ∀ (i : Instr) (s t : State), exec i s = .next t →
    t.args = s.args ∧ t.mem = s.mem ∧ t.peakIn = s.peakIn ∧ t.peakOut = s.peakOut ∧ t.irqEn = s.irqEn ∧
    t.wign = s.wign ∧ t.cfg = s.cfg ∧ t.platform = s.platform ∧ t.events = s.events ∧
    ∀ k, (engineTurns k t).args = s.args ∧ (engineTurns k t).irqEn = s.irqEn ∧ (engineTurns k t).wign = s.wign

/-- R63, R109, R137: a command reads and writes only the context it names: no step of it changes another context, and changing
other contexts of its kind, and any context of the other kind, the same index included, changes nothing in what it leaves.
Turns are the model's (log entry 7). -/
def Obligations.ContextsAreIndependent : Prop :=
  ∀ (ctx c d : BitVec 4) (fx : Bool) (s t : State) (x : StereoCtx) (y : MonoCtx), c ≠ ctx → s.run = none →
    (exec (.smix ctx fx) s = .next t → ∀ k,
      (engineTurns k t).stereo c = s.stereo c ∧ (engineTurns k t).ms = s.ms ∧
      ∃ t', exec (.smix ctx fx) ((s.setStereo c x).setMono d y) = .next t' ∧
        engineTurns k t' = ((engineTurns k t).setStereo c x).setMono d y) ∧
    (exec (.mmix ctx fx) s = .next t → ∀ k,
      (engineTurns k t).mono c = s.mono c ∧ (engineTurns k t).ss = s.ss ∧
      ∃ t', exec (.mmix ctx fx) ((s.setStereo d x).setMono c y) = .next t' ∧
        engineTurns k t' = ((engineTurns k t).setStereo d x).setMono c y)

/-- R150: no choice depends on sample data. Two runs of a command from states that differ only in memory agree, after any
number of turns, on the engine's phase and frame, STATUS, ERRADDR, the arguments and every smoothing context.
Turns are the model's (log entry 7). -/
def Obligations.ControlIgnoresSampleData : Prop :=
  ∀ (i : Instr) (s : State) (m : Memory), s.run = none →
    ∃ t t', exec i s = .next t ∧ exec i { s with mem := m } = .next t' ∧
      ∀ k, let u := engineTurns k t
        let v := engineTurns k t'
        u.run.map Run.frame = v.run.map Run.frame ∧ u.statusWord = v.statusWord ∧ u.errAddr = v.errAddr ∧
        u.args = v.args ∧ u.ss = v.ss ∧ u.ms = v.ms ∧ u.unseen = v.unseen ∧ u.breaches = v.breaches

/-! ## Numerics -/

/-- R80: fadd, fsub, fmul and fdiv of finite operands give the exact sum, difference, product and quotient rounded once to
nearest, ties to even, with overflow to infinity and subnormals kept (`RoundsTo`); an exact zero sum of opposite-signed
operands is +0.0; infinity times 0, infinity minus infinity and 0 / 0 are the NaN; a NaN operand gives the NaN. And the
shared rounding `roundMag` is to a nearest binary32 magnitude, the even one of two, and to infinity from half a unit above the
largest finite value on. -/
def Obligations.RoundingIsToNearestEven : Prop :=
  (∀ (a b : Word) (p q : Bool) (x y : Nat), f32 a = .fin p x → f32 b = .fin q y →
    (signed p x + signed q y ≠ 0 →
      RoundsTo (decide (signed p x + signed q y < 0)) (signed p x + signed q y).natAbs 1 (fadd a b)) ∧
    (signed p x + signed q y = 0 → p ≠ q → fadd a b = 0) ∧
    (signed p x - signed q y ≠ 0 →
      RoundsTo (decide (signed p x - signed q y < 0)) (signed p x - signed q y).natAbs 1 (fsub a b)) ∧
    (signed p x - signed q y = 0 → p = q → fsub a b = 0) ∧
    RoundsTo (p != q) (x * y) (2 ^ 149) (fmul a b) ∧
    (y ≠ 0 → RoundsTo (p != q) (x * 2 ^ 149) y (fdiv a b)) ∧
    (x = 0 → y = 0 → fdiv a b = 0x7FC00000)) ∧
  (∀ (a b : Word) (p q : Bool) (x : Nat), f32 a = .inf p → f32 b = .fin q x →
    (x = 0 → fmul a b = 0x7FC00000 ∧ fmul b a = 0x7FC00000) ∧
    (x ≠ 0 → f32 (fmul a b) = .inf (p != q) ∧ f32 (fmul b a) = .inf (p != q)) ∧
    f32 (fadd a b) = .inf p ∧ f32 (fadd b a) = .inf p ∧ f32 (fsub a b) = .inf p ∧ f32 (fsub b a) = .inf (!p)) ∧
  (∀ (a b : Word) (p q : Bool), f32 a = .inf p → f32 b = .inf q →
    f32 (fmul a b) = .inf (p != q) ∧
    (p ≠ q → fadd a b = 0x7FC00000) ∧ (p = q → f32 (fadd a b) = .inf p) ∧
    (p = q → fsub a b = 0x7FC00000) ∧ (p ≠ q → f32 (fsub a b) = .inf p)) ∧
  (∀ a b : Word, isNaN a = true ∨ isNaN b = true →
    fadd a b = 0x7FC00000 ∧ fsub a b = 0x7FC00000 ∧ fmul a b = 0x7FC00000 ∧ fdiv a b = 0x7FC00000) ∧
  ∀ num den : Nat, 0 < den →
    (roundMag num den = 0x7F800000 ↔ (2 ^ 25 - 1) * 2 ^ 252 * den ≤ num) ∧
    (roundMag num den < 0x7F800000 → ∀ b : Nat, b < 0x7F800000 →
      (valueOf (pack false (roundMag num den)) * den - num).natAbs ≤ (valueOf (pack false b) * den - num).natAbs ∧
      ((valueOf (pack false (roundMag num den)) * den - num).natAbs = (valueOf (pack false b) * den - num).natAbs →
        b ≠ roundMag num den → roundMag num den % 2 = 0))

/-- R81: every NaN the arithmetic delivers, and every NaN a mixer or FXDEC writes, is 0x7FC00000. -/
def Obligations.EveryNaNResultIsCanonical : Prop :=
  (∀ a b : Word,
    (isNaN (fadd a b) = true → fadd a b = 0x7FC00000) ∧ (isNaN (fsub a b) = true → fsub a b = 0x7FC00000) ∧
    (isNaN (fmul a b) = true → fmul a b = 0x7FC00000) ∧ (isNaN (fdiv a b) = true → fdiv a b = 0x7FC00000)) ∧
  (∀ o : Word, isNaN (outWord false o) = true → outWord false o = 0x7FC00000) ∧
  ∀ q : Word, isNaN (b32 (fxDec q)) = false

/-- R82: the valid gains are exactly the encodings from +0.0 up to 0x7F7FFFFF. -/
def Obligations.ValidGainsAreTheNonnegativeFinite : Prop :=
  ∀ b : Word, validGain b = true ↔ b.toNat ≤ 0x7F7FFFFF

/-- R84 (a) to (c): the ramp is the previous gain at frame 0, exactly the target at frame n - 1, and constant when they are
equal; so the gain at frame 0 of a block is the target of the block before. -/
def Obligations.RampMeetsItsEndPoints : Prop :=
  ∀ (prev tgt : Word) (n : Nat), validGain prev = true → validGain tgt = true → 2 ≤ n → n ≤ 2048 →
    ramp prev tgt n 0 = prev ∧ ramp prev tgt n (n - 1) = tgt ∧ ∀ i, i < n → ramp prev prev n i = prev

/-- R84 (d): every ramp value of valid gains is finite with sign bit 0. -/
def Obligations.RampValuesAreValidGains : Prop :=
  ∀ (prev tgt : Word) (n i : Nat), validGain prev = true → validGain tgt = true → 2 ≤ n → n ≤ 2048 → i < n →
    validGain (ramp prev tgt n i) = true

/-- R88: a meter started at +0.0 ends as the largest absolute value it was given, NaNs left out, and never a NaN. -/
def Obligations.MeterIsTheLargestMagnitude : Prop :=
  ∀ ys : List Word,
    let m := ys.foldl peakUpd 0
    isNaN m = false ∧ (∀ y ∈ ys, fgt (fabs y) m = false) ∧ (m = 0 ∨ ∃ y ∈ ys, m = fabs y)

/-- R94: S16Dec is exact: its value is the sample divided by 32768; with the rule's three values. -/
def Obligations.S16DecIsExact : Prop :=
  (∀ h : Half, isNaN (s16Dec h) = false ∧ valueOf (s16Dec h) * 32768 = h.toInt * 2 ^ 149) ∧
  s16Dec 0x8000 = 0xBF800000 ∧ s16Dec 0x7FFF = 0x3F7FFE00 ∧ s16Dec 0 = 0

/-- R95: the 16-bit round trip errs by at most 1/65536 below 32767.5/32768; above it the result is 32767/32768; everywhere
in [-1, 1) the error is below 1/32768. -/
def Obligations.SixteenBitRoundTripBound : Prop :=
  ∀ (f : Word) (neg : Bool) (mag : Nat), f32 f = .fin neg mag →
    -(2 : Int) ^ 149 ≤ signed neg mag → signed neg mag < 2 ^ 149 →
    (signed neg mag < 65535 * 2 ^ 133 →
      (valueOf (s16Dec (s16Enc f)) - signed neg mag).natAbs ≤ 2 ^ 133) ∧
    (65535 * 2 ^ 133 ≤ signed neg mag → valueOf (s16Dec (s16Enc f)) = 32767 * 2 ^ 134) ∧
    (valueOf (s16Dec (s16Enc f)) - signed neg mag).natAbs < 2 ^ 134

/-- R91, R113: FxDec gives the binary32 value nearest q / 2^24, ties to even (`RoundsTo`), exactly where |q| < 2^24 or
some binary32 value is exact, with the rule's three values; and in [-128, 128) the 8.24 round trip returns every multiple
of 2^-24, -0.0 as +0.0; every value from 1/2 on is such a multiple; any other errs by at most 2^-25. -/
def Obligations.FixedPointRoundTrip : Prop :=
  (∀ q : Word,
    RoundsTo (decide (q.toInt < 0)) (q.toInt.natAbs * 2 ^ 149) (2 ^ 24) (fxDec q) ∧
    (q.toInt.natAbs < 2 ^ 24 ∨ (∃ b : Word, valueOf b * 2 ^ 24 = q.toInt * 2 ^ 149) →
      valueOf (fxDec q) * 2 ^ 24 = q.toInt * 2 ^ 149)) ∧
  fxDec 0x7FFFFFFF = 0x43000000 ∧ fxDec 0x80000000 = 0xC3000000 ∧ fxDec 0 = 0 ∧
  ∀ (f : Word) (neg : Bool) (mag : Nat), f32 f = .fin neg mag →
    -(2 : Int) ^ 156 ≤ signed neg mag → signed neg mag < 2 ^ 156 →
    (2 ^ 125 ∣ mag → fxDec (fxEnc f) = if mag = 0 then 0 else f) ∧
    (2 ^ 148 ≤ mag → 2 ^ 125 ∣ mag) ∧
    (valueOf (fxDec (fxEnc f)) - signed neg mag).natAbs ≤ 2 ^ 124

/-- R90, R93: the encoders never wrap: the integer they give is the rounded product kept within the signed range, and a NaN
gives 0. -/
def Obligations.EncodersSaturate : Prop :=
  (∀ (f : Word) (neg : Bool) (mag : Nat), f32 f = .fin neg mag →
    (fxEnc f).toInt = max (-2 ^ 31) (min (2 ^ 31 - 1) (signed neg (rneDiv (mag * 2 ^ 24) (2 ^ 149)))) ∧
    (s16Enc f).toInt = max (-2 ^ 15) (min (2 ^ 15 - 1) (signed neg (rneDiv (mag * 2 ^ 15) (2 ^ 149))))) ∧
  (∀ f : Word, isNaN f = true → fxEnc f = 0 ∧ s16Enc f = 0) ∧
  fxEnc 0x7F800000 = 0x7FFFFFFF ∧ fxEnc 0xFF800000 = 0x80000000 ∧
  s16Enc 0x7F800000 = 0x7FFF ∧ s16Enc 0xFF800000 = 0x8000
end

