-- ==== Sys2Proof/Laws/Memory.lean ====
section
/-! SUPPORT. The laws of system memory: a read after a write, what a write leaves alone, and the canonical form. -/

namespace Sys2Proof.Machine

theorem Memory.readByte_erase (m : Memory) (a b : Nat) :
    (m.erase a).readByte b = if b = a then unlisted else m.readByte b := by
  induction m with
  | nil => simp [Memory.erase, Memory.readByte]
  | cons c m ih =>
    obtain ⟨x, w⟩ := c
    by_cases hxa : x = a
    · subst hxa
      simp only [Memory.erase, if_pos, ih, Memory.readByte]
      by_cases hb : b = x
      · simp [hb]
      · simp [hb, Ne.symm hb]
    · simp only [Memory.erase, hxa, if_false, Memory.readByte, ih]
      by_cases hxb : x = b
      · subst hxb; simp [hxa]
      · simp [hxb]

theorem Memory.erase_absent (m : Memory) (a : Nat) : ∀ c ∈ m.erase a, c.1 ≠ a := by
  induction m with
  | nil => simp [Memory.erase]
  | cons c m ih =>
    obtain ⟨x, w⟩ := c
    by_cases hxa : x = a
    · simpa [Memory.erase, hxa] using ih
    · intro c hc
      simp only [Memory.erase, hxa, if_false, List.mem_cons] at hc
      rcases hc with rfl | hc
      · exact hxa
      · exact ih c hc

theorem Memory.readByte_insert (m : Memory) (a b : Nat) (v : Byte) (h : ∀ c ∈ m, c.1 ≠ a) :
    (m.insert a v).readByte b = if b = a then v else m.readByte b := by
  induction m with
  | nil => simp [Memory.insert, Memory.readByte, eq_comm]
  | cons c m ih =>
    obtain ⟨x, w⟩ := c
    have hx : x ≠ a := h (x, w) (by simp)
    have ih := ih (fun c hc => h c (by simp [hc]))
    by_cases hlt : a < x
    · simp [Memory.insert, hlt, Memory.readByte, eq_comm]
    · simp only [Memory.insert, hlt, if_false, Memory.readByte, ih]
      by_cases hxb : x = b
      · subst hxb; simp [hx]
      · simp [hxb]

/-- A byte read after a byte is written. -/
theorem Memory.readByte_writeByte (m : Memory) (a b : Nat) (v : Byte) :
    (m.writeByte a v).readByte b = if b = a then v else m.readByte b := by
  unfold Memory.writeByte
  split
  · next h => rw [Memory.readByte_erase, h]
  · rw [Memory.readByte_insert _ _ _ _ (Memory.erase_absent m a), Memory.readByte_erase]
    split <;> rfl

@[simp] theorem Memory.readByte_writeByte_same (m : Memory) (a : Nat) (v : Byte) :
    (m.writeByte a v).readByte a = v := by simp [Memory.readByte_writeByte]

theorem Memory.readByte_writeByte_ne (m : Memory) {a b : Nat} (v : Byte) (h : b ≠ a) :
    (m.writeByte a v).readByte b = m.readByte b := by simp [Memory.readByte_writeByte, h]

/-- A byte outside a written word. -/
theorem Memory.readByte_writeWord_outside (m : Memory) {a b : Nat} (v : Word) (h : b < a ∨ a + 4 ≤ b) :
    (m.writeWord a v).readByte b = m.readByte b := by
  simp only [Memory.writeWord, Memory.readByte_writeByte]
  rw [if_neg (by omega), if_neg (by omega), if_neg (by omega), if_neg (by omega)]

/-- A byte outside a written half. -/
theorem Memory.readByte_writeHalf_outside (m : Memory) {a b : Nat} (v : Half) (h : b < a ∨ a + 2 ≤ b) :
    (m.writeHalf a v).readByte b = m.readByte b := by
  simp only [Memory.writeHalf, Memory.readByte_writeByte]
  rw [if_neg (by omega), if_neg (by omega)]

/-- A word read where it was written. -/
@[simp] theorem Memory.readWord_writeWord_same (m : Memory) (a : Nat) (v : Word) :
    (m.writeWord a v).readWord a = v := by
  simp only [Memory.readWord, Memory.writeWord, Memory.readByte_writeByte]
  rw [if_pos trivial, if_neg (by omega), if_pos trivial, if_neg (by omega), if_neg (by omega), if_pos trivial,
    if_neg (by omega), if_neg (by omega), if_neg (by omega), if_pos trivial]
  apply BitVec.eq_of_getLsbD_eq
  intro i hi
  simp only [BitVec.getLsbD_append, BitVec.getLsbD_extractLsb']
  split
  · simp [*]
  · split
    · rw [show 8 + (i - 8) = i by omega]; simp; omega
    · split
      · rw [show 16 + (i - 8 - 8) = i by omega]; simp; omega
      · rw [show 24 + (i - 8 - 8 - 8) = i by omega]; simp; omega

/-- A half read where it was written. -/
@[simp] theorem Memory.readHalf_writeHalf_same (m : Memory) (a : Nat) (v : Half) :
    (m.writeHalf a v).readHalf a = v := by
  simp only [Memory.readHalf, Memory.writeHalf, Memory.readByte_writeByte]
  rw [if_pos trivial, if_neg (by omega), if_pos trivial]
  apply BitVec.eq_of_getLsbD_eq
  intro i hi
  simp only [BitVec.getLsbD_append, BitVec.getLsbD_extractLsb']
  split
  · simp [*]
  · rw [show 8 + (i - 8) = i by omega]; simp; omega

/-- Two memories that agree on four bytes agree on the word. -/
theorem Memory.readWord_congr {m m' : Memory} {a : Nat}
    (h : ∀ b, a ≤ b → b < a + 4 → m.readByte b = m'.readByte b) : m.readWord a = m'.readWord a := by
  simp only [Memory.readWord, h a (by omega) (by omega), h (a + 1) (by omega) (by omega),
    h (a + 2) (by omega) (by omega), h (a + 3) (by omega) (by omega)]

/-- Two memories that agree on two bytes agree on the half. -/
theorem Memory.readHalf_congr {m m' : Memory} {a : Nat}
    (h : ∀ b, a ≤ b → b < a + 2 → m.readByte b = m'.readByte b) : m.readHalf a = m'.readHalf a := by
  simp only [Memory.readHalf, h a (by omega) (by omega), h (a + 1) (by omega) (by omega)]

/-- A word read beside a written word. -/
theorem Memory.readWord_writeWord_disjoint (m : Memory) {a b : Nat} (v : Word) (h : b + 4 ≤ a ∨ a + 4 ≤ b) :
    (m.writeWord a v).readWord b = m.readWord b :=
  Memory.readWord_congr fun _ _ _ => Memory.readByte_writeWord_outside m v (by omega)

/-- A word read beside a written half. -/
theorem Memory.readWord_writeHalf_disjoint (m : Memory) {a b : Nat} (v : Half) (h : b + 4 ≤ a ∨ a + 2 ≤ b) :
    (m.writeHalf a v).readWord b = m.readWord b :=
  Memory.readWord_congr fun _ _ _ => Memory.readByte_writeHalf_outside m v (by omega)

/-- A half read beside a written half. -/
theorem Memory.readHalf_writeHalf_disjoint (m : Memory) {a b : Nat} (v : Half) (h : b + 2 ≤ a ∨ a + 2 ≤ b) :
    (m.writeHalf a v).readHalf b = m.readHalf b :=
  Memory.readHalf_congr fun _ _ _ => Memory.readByte_writeHalf_outside m v (by omega)

/-- A half read beside a written word. -/
theorem Memory.readHalf_writeWord_disjoint (m : Memory) {a b : Nat} (v : Word) (h : b + 2 ≤ a ∨ a + 4 ≤ b) :
    (m.writeWord a v).readHalf b = m.readHalf b :=
  Memory.readHalf_congr fun _ _ _ => Memory.readByte_writeWord_outside m v (by omega)

/-- A byte outside a span made free. -/
theorem Memory.readByte_scramble_outside (m : Memory) (base draw k : Nat) {b : Nat} (h : b < base ∨ base + k ≤ b) :
    (m.scramble base draw k).readByte b = m.readByte b := by
  induction k with
  | zero => rfl
  | succ k ih =>
    rw [Memory.scramble, Memory.readByte_writeByte_ne _ _ (by omega), ih (by omega)]

/-- A byte inside a span made free. -/
theorem Memory.readByte_scramble_inside (m : Memory) (base draw k j : Nat) (h : j < k) :
    (m.scramble base draw k).readByte (base + j) = Config.freeByte (draw + j) := by
  induction k with
  | zero => omega
  | succ k ih =>
    rw [Memory.scramble]
    by_cases hj : j = k
    · subst hj; simp
    · rw [Memory.readByte_writeByte_ne _ _ (by omega), ih (by omega)]

theorem Memory.wfFrom_weaken {lo lo' : Nat} {m : Memory} (hm : Memory.wfFrom lo m = true) (h : lo' ≤ lo) :
    Memory.wfFrom lo' m = true := by
  cases m with
  | nil => rfl
  | cons c m =>
    obtain ⟨x, w⟩ := c
    simp only [Memory.wfFrom, Bool.and_eq_true, decide_eq_true_eq] at hm ⊢
    exact ⟨⟨by omega, hm.1.2⟩, hm.2⟩

theorem Memory.wfFrom_erase {lo : Nat} {m : Memory} (a : Nat) (hm : Memory.wfFrom lo m = true) :
    Memory.wfFrom lo (m.erase a) = true := by
  induction m generalizing lo with
  | nil => rfl
  | cons c m ih =>
    obtain ⟨x, w⟩ := c
    simp only [Memory.wfFrom, Bool.and_eq_true, decide_eq_true_eq] at hm
    by_cases hxa : x = a
    · simpa [Memory.erase, hxa] using Memory.wfFrom_weaken (ih hm.2) (by omega)
    · simp only [Memory.erase, hxa, if_false, Memory.wfFrom, Bool.and_eq_true, decide_eq_true_eq]
      exact ⟨hm.1, ih hm.2⟩

theorem Memory.wfFrom_insert {lo : Nat} {m : Memory} {a : Nat} {v : Byte} (hm : Memory.wfFrom lo m = true)
    (ha : ∀ c ∈ m, c.1 ≠ a) (hlo : lo ≤ a) (hv : v ≠ unlisted) : Memory.wfFrom lo (m.insert a v) = true := by
  induction m generalizing lo with
  | nil => simp [Memory.insert, Memory.wfFrom, hlo, hv]
  | cons c m ih =>
    obtain ⟨x, w⟩ := c
    have hx : x ≠ a := ha (x, w) (by simp)
    simp only [Memory.wfFrom, Bool.and_eq_true, decide_eq_true_eq] at hm
    by_cases hlt : a < x
    · simp only [Memory.insert, hlt, if_true, Memory.wfFrom, Bool.and_eq_true, decide_eq_true_eq]
      exact ⟨⟨hlo, hv⟩, ⟨by omega, hm.1.2⟩, hm.2⟩
    · simp only [Memory.insert, hlt, if_false, Memory.wfFrom, Bool.and_eq_true, decide_eq_true_eq]
      exact ⟨hm.1, ih hm.2 (fun c hc => ha c (by simp [hc])) (by omega)⟩

/-- A written byte keeps the canonical form. -/
theorem Memory.wf_writeByte {m : Memory} (a : Nat) (v : Byte) (hm : m.wf = true) : (m.writeByte a v).wf = true := by
  unfold Memory.writeByte
  split
  · exact Memory.wfFrom_erase a hm
  · next hv => exact Memory.wfFrom_insert (Memory.wfFrom_erase a hm) (Memory.erase_absent m a) (Nat.zero_le a) hv

/-- A written half keeps the canonical form. -/
theorem Memory.wf_writeHalf {m : Memory} (a : Nat) (v : Half) (hm : m.wf = true) : (m.writeHalf a v).wf = true :=
  Memory.wf_writeByte _ _ (Memory.wf_writeByte _ _ hm)

/-- A written word keeps the canonical form. -/
theorem Memory.wf_writeWord {m : Memory} (a : Nat) (v : Word) (hm : m.wf = true) : (m.writeWord a v).wf = true :=
  Memory.wf_writeByte _ _ (Memory.wf_writeByte _ _ (Memory.wf_writeByte _ _ (Memory.wf_writeByte _ _ hm)))

/-- A span made free keeps the canonical form. -/
theorem Memory.wf_scramble {m : Memory} (base draw k : Nat) (hm : m.wf = true) :
    (m.scramble base draw k).wf = true := by
  induction k with
  | zero => exact hm
  | succ k ih => exact Memory.wf_writeByte _ _ ih

theorem Memory.inSpace_erase {m : Memory} (a : Nat) (hm : m.inSpace = true) : (m.erase a).inSpace = true := by
  induction m with
  | nil => rfl
  | cons c m ih =>
    obtain ⟨x, w⟩ := c
    simp only [Memory.inSpace, List.all_cons, Bool.and_eq_true] at hm ih
    by_cases hxa : x = a
    · simpa [Memory.erase, hxa, Memory.inSpace] using ih hm.2
    · simp only [Memory.erase, hxa, if_false, Memory.inSpace, List.all_cons, Bool.and_eq_true]
      exact ⟨hm.1, ih hm.2⟩

theorem Memory.inSpace_insert {m : Memory} {a : Nat} (v : Byte) (ha : a < 2 ^ 32) (hm : m.inSpace = true) :
    (m.insert a v).inSpace = true := by
  induction m with
  | nil => simpa [Memory.insert, Memory.inSpace] using ha
  | cons c m ih =>
    obtain ⟨x, w⟩ := c
    simp only [Memory.inSpace, List.all_cons, Bool.and_eq_true, decide_eq_true_eq] at hm ih
    by_cases hlt : a < x
    · simp only [Memory.insert, hlt, if_true, Memory.inSpace, List.all_cons, Bool.and_eq_true, decide_eq_true_eq]
      exact ⟨ha, hm⟩
    · simp only [Memory.insert, hlt, if_false, Memory.inSpace, List.all_cons, Bool.and_eq_true, decide_eq_true_eq]
      exact ⟨hm.1, ih hm.2⟩

/-- A byte written at a 32-bit address keeps memory within the address space. -/
theorem Memory.inSpace_writeByte {m : Memory} {a : Nat} (v : Byte) (ha : a < 2 ^ 32) (hm : m.inSpace = true) :
    (m.writeByte a v).inSpace = true := by
  unfold Memory.writeByte
  split
  · exact Memory.inSpace_erase a hm
  · exact Memory.inSpace_insert v ha (Memory.inSpace_erase a hm)

/-- A half written inside the address space keeps memory there. -/
theorem Memory.inSpace_writeHalf {m : Memory} {a : Nat} (v : Half) (ha : a + 2 ≤ 2 ^ 32) (hm : m.inSpace = true) :
    (m.writeHalf a v).inSpace = true :=
  Memory.inSpace_writeByte _ (by omega) (Memory.inSpace_writeByte _ (by omega) hm)

/-- A word written inside the address space keeps memory there. -/
theorem Memory.inSpace_writeWord {m : Memory} {a : Nat} (v : Word) (ha : a + 4 ≤ 2 ^ 32) (hm : m.inSpace = true) :
    (m.writeWord a v).inSpace = true :=
  Memory.inSpace_writeByte _ (by omega) (Memory.inSpace_writeByte _ (by omega)
    (Memory.inSpace_writeByte _ (by omega) (Memory.inSpace_writeByte _ (by omega) hm)))

/-- A span made free inside the address space keeps memory there. -/
theorem Memory.inSpace_scramble {m : Memory} {base k : Nat} (draw : Nat) (h : base + k ≤ 2 ^ 32)
    (hm : m.inSpace = true) : (m.scramble base draw k).inSpace = true := by
  induction k with
  | zero => exact hm
  | succ k ih => exact Memory.inSpace_writeByte _ (by omega) (ih (by omega))

end Sys2Proof.Machine
end

