-- ==== Sys2Proof/Laws/State.lean ====
section
/-! SUPPORT. What each named update of the state does to each field. -/

namespace Sys2Proof.Machine

@[simp] theorem State.setStereo_cfg (s : State) (c : BitVec 4) (x : StereoCtx) : (s.setStereo c x).cfg = s.cfg := rfl
@[simp] theorem State.setStereo_irqEn (s : State) (c : BitVec 4) (x : StereoCtx) : (s.setStereo c x).irqEn = s.irqEn := rfl
@[simp] theorem State.setStereo_done (s : State) (c : BitVec 4) (x : StereoCtx) : (s.setStereo c x).done = s.done := rfl
@[simp] theorem State.setStereo_err (s : State) (c : BitVec 4) (x : StereoCtx) : (s.setStereo c x).err = s.err := rfl
@[simp] theorem State.setStereo_wign (s : State) (c : BitVec 4) (x : StereoCtx) : (s.setStereo c x).wign = s.wign := rfl
@[simp] theorem State.setStereo_errCode (s : State) (c : BitVec 4) (x : StereoCtx) : (s.setStereo c x).errCode = s.errCode := rfl
@[simp] theorem State.setStereo_errAddr (s : State) (c : BitVec 4) (x : StereoCtx) : (s.setStereo c x).errAddr = s.errAddr := rfl
@[simp] theorem State.setStereo_args (s : State) (c : BitVec 4) (x : StereoCtx) : (s.setStereo c x).args = s.args := rfl
@[simp] theorem State.setStereo_peakIn (s : State) (c : BitVec 4) (x : StereoCtx) : (s.setStereo c x).peakIn = s.peakIn := rfl
@[simp] theorem State.setStereo_peakOut (s : State) (c : BitVec 4) (x : StereoCtx) : (s.setStereo c x).peakOut = s.peakOut := rfl
@[simp] theorem State.setStereo_ss (s : State) (c : BitVec 4) (x : StereoCtx) : (s.setStereo c x).ss = s.ss.set c.toNat x c.isLt := rfl
@[simp] theorem State.setStereo_ms (s : State) (c : BitVec 4) (x : StereoCtx) : (s.setStereo c x).ms = s.ms := rfl
@[simp] theorem State.setStereo_run (s : State) (c : BitVec 4) (x : StereoCtx) : (s.setStereo c x).run = s.run := rfl
@[simp] theorem State.setStereo_mem (s : State) (c : BitVec 4) (x : StereoCtx) : (s.setStereo c x).mem = s.mem := rfl
@[simp] theorem State.setStereo_platform (s : State) (c : BitVec 4) (x : StereoCtx) : (s.setStereo c x).platform = s.platform := rfl
@[simp] theorem State.setStereo_unseen (s : State) (c : BitVec 4) (x : StereoCtx) : (s.setStereo c x).unseen = s.unseen := rfl
@[simp] theorem State.setStereo_events (s : State) (c : BitVec 4) (x : StereoCtx) : (s.setStereo c x).events = s.events := rfl
@[simp] theorem State.setStereo_reply (s : State) (c : BitVec 4) (x : StereoCtx) : (s.setStereo c x).reply = s.reply := rfl
@[simp] theorem State.setStereo_draws (s : State) (c : BitVec 4) (x : StereoCtx) : (s.setStereo c x).draws = s.draws := rfl
@[simp] theorem State.setStereo_breaches (s : State) (c : BitVec 4) (x : StereoCtx) : (s.setStereo c x).breaches = s.breaches := rfl

@[simp] theorem State.setMono_cfg (s : State) (c : BitVec 4) (x : MonoCtx) : (s.setMono c x).cfg = s.cfg := rfl
@[simp] theorem State.setMono_irqEn (s : State) (c : BitVec 4) (x : MonoCtx) : (s.setMono c x).irqEn = s.irqEn := rfl
@[simp] theorem State.setMono_done (s : State) (c : BitVec 4) (x : MonoCtx) : (s.setMono c x).done = s.done := rfl
@[simp] theorem State.setMono_err (s : State) (c : BitVec 4) (x : MonoCtx) : (s.setMono c x).err = s.err := rfl
@[simp] theorem State.setMono_wign (s : State) (c : BitVec 4) (x : MonoCtx) : (s.setMono c x).wign = s.wign := rfl
@[simp] theorem State.setMono_errCode (s : State) (c : BitVec 4) (x : MonoCtx) : (s.setMono c x).errCode = s.errCode := rfl
@[simp] theorem State.setMono_errAddr (s : State) (c : BitVec 4) (x : MonoCtx) : (s.setMono c x).errAddr = s.errAddr := rfl
@[simp] theorem State.setMono_args (s : State) (c : BitVec 4) (x : MonoCtx) : (s.setMono c x).args = s.args := rfl
@[simp] theorem State.setMono_peakIn (s : State) (c : BitVec 4) (x : MonoCtx) : (s.setMono c x).peakIn = s.peakIn := rfl
@[simp] theorem State.setMono_peakOut (s : State) (c : BitVec 4) (x : MonoCtx) : (s.setMono c x).peakOut = s.peakOut := rfl
@[simp] theorem State.setMono_ss (s : State) (c : BitVec 4) (x : MonoCtx) : (s.setMono c x).ss = s.ss := rfl
@[simp] theorem State.setMono_ms (s : State) (c : BitVec 4) (x : MonoCtx) : (s.setMono c x).ms = s.ms.set c.toNat x c.isLt := rfl
@[simp] theorem State.setMono_run (s : State) (c : BitVec 4) (x : MonoCtx) : (s.setMono c x).run = s.run := rfl
@[simp] theorem State.setMono_mem (s : State) (c : BitVec 4) (x : MonoCtx) : (s.setMono c x).mem = s.mem := rfl
@[simp] theorem State.setMono_platform (s : State) (c : BitVec 4) (x : MonoCtx) : (s.setMono c x).platform = s.platform := rfl
@[simp] theorem State.setMono_unseen (s : State) (c : BitVec 4) (x : MonoCtx) : (s.setMono c x).unseen = s.unseen := rfl
@[simp] theorem State.setMono_events (s : State) (c : BitVec 4) (x : MonoCtx) : (s.setMono c x).events = s.events := rfl
@[simp] theorem State.setMono_reply (s : State) (c : BitVec 4) (x : MonoCtx) : (s.setMono c x).reply = s.reply := rfl
@[simp] theorem State.setMono_draws (s : State) (c : BitVec 4) (x : MonoCtx) : (s.setMono c x).draws = s.draws := rfl
@[simp] theorem State.setMono_breaches (s : State) (c : BitVec 4) (x : MonoCtx) : (s.setMono c x).breaches = s.breaches := rfl

@[simp] theorem State.noteIf_cfg (s : State) (cond : Bool) (b : Breach) : (s.noteIf cond b).cfg = s.cfg := rfl
@[simp] theorem State.noteIf_irqEn (s : State) (cond : Bool) (b : Breach) : (s.noteIf cond b).irqEn = s.irqEn := rfl
@[simp] theorem State.noteIf_done (s : State) (cond : Bool) (b : Breach) : (s.noteIf cond b).done = s.done := rfl
@[simp] theorem State.noteIf_err (s : State) (cond : Bool) (b : Breach) : (s.noteIf cond b).err = s.err := rfl
@[simp] theorem State.noteIf_wign (s : State) (cond : Bool) (b : Breach) : (s.noteIf cond b).wign = s.wign := rfl
@[simp] theorem State.noteIf_errCode (s : State) (cond : Bool) (b : Breach) : (s.noteIf cond b).errCode = s.errCode := rfl
@[simp] theorem State.noteIf_errAddr (s : State) (cond : Bool) (b : Breach) : (s.noteIf cond b).errAddr = s.errAddr := rfl
@[simp] theorem State.noteIf_args (s : State) (cond : Bool) (b : Breach) : (s.noteIf cond b).args = s.args := rfl
@[simp] theorem State.noteIf_peakIn (s : State) (cond : Bool) (b : Breach) : (s.noteIf cond b).peakIn = s.peakIn := rfl
@[simp] theorem State.noteIf_peakOut (s : State) (cond : Bool) (b : Breach) : (s.noteIf cond b).peakOut = s.peakOut := rfl
@[simp] theorem State.noteIf_ss (s : State) (cond : Bool) (b : Breach) : (s.noteIf cond b).ss = s.ss := rfl
@[simp] theorem State.noteIf_ms (s : State) (cond : Bool) (b : Breach) : (s.noteIf cond b).ms = s.ms := rfl
@[simp] theorem State.noteIf_run (s : State) (cond : Bool) (b : Breach) : (s.noteIf cond b).run = s.run := rfl
@[simp] theorem State.noteIf_mem (s : State) (cond : Bool) (b : Breach) : (s.noteIf cond b).mem = s.mem := rfl
@[simp] theorem State.noteIf_platform (s : State) (cond : Bool) (b : Breach) : (s.noteIf cond b).platform = s.platform := rfl
@[simp] theorem State.noteIf_unseen (s : State) (cond : Bool) (b : Breach) : (s.noteIf cond b).unseen = s.unseen := rfl
@[simp] theorem State.noteIf_events (s : State) (cond : Bool) (b : Breach) : (s.noteIf cond b).events = s.events := rfl
@[simp] theorem State.noteIf_reply (s : State) (cond : Bool) (b : Breach) : (s.noteIf cond b).reply = s.reply := rfl
@[simp] theorem State.noteIf_draws (s : State) (cond : Bool) (b : Breach) : (s.noteIf cond b).draws = s.draws := rfl
@[simp] theorem State.noteIf_breaches (s : State) (cond : Bool) (b : Breach) : (s.noteIf cond b).breaches = if cond && !s.breaches.contains b then s.breaches ++ [b] else s.breaches := rfl

@[simp] theorem State.raiseError_cfg (s : State) (code : ErrCode) (addr : Word) : (s.raiseError code addr).cfg = s.cfg := rfl
@[simp] theorem State.raiseError_irqEn (s : State) (code : ErrCode) (addr : Word) : (s.raiseError code addr).irqEn = s.irqEn := rfl
@[simp] theorem State.raiseError_done (s : State) (code : ErrCode) (addr : Word) : (s.raiseError code addr).done = true := rfl
@[simp] theorem State.raiseError_err (s : State) (code : ErrCode) (addr : Word) : (s.raiseError code addr).err = true := rfl
@[simp] theorem State.raiseError_wign (s : State) (code : ErrCode) (addr : Word) : (s.raiseError code addr).wign = s.wign := rfl
@[simp] theorem State.raiseError_errCode (s : State) (code : ErrCode) (addr : Word) : (s.raiseError code addr).errCode = code := rfl
@[simp] theorem State.raiseError_errAddr (s : State) (code : ErrCode) (addr : Word) : (s.raiseError code addr).errAddr = addr := rfl
@[simp] theorem State.raiseError_args (s : State) (code : ErrCode) (addr : Word) : (s.raiseError code addr).args = s.args := rfl
@[simp] theorem State.raiseError_peakIn (s : State) (code : ErrCode) (addr : Word) : (s.raiseError code addr).peakIn = s.peakIn := rfl
@[simp] theorem State.raiseError_peakOut (s : State) (code : ErrCode) (addr : Word) : (s.raiseError code addr).peakOut = s.peakOut := rfl
@[simp] theorem State.raiseError_ss (s : State) (code : ErrCode) (addr : Word) : (s.raiseError code addr).ss = s.ss := rfl
@[simp] theorem State.raiseError_ms (s : State) (code : ErrCode) (addr : Word) : (s.raiseError code addr).ms = s.ms := rfl
@[simp] theorem State.raiseError_run (s : State) (code : ErrCode) (addr : Word) : (s.raiseError code addr).run = s.run := rfl
@[simp] theorem State.raiseError_mem (s : State) (code : ErrCode) (addr : Word) : (s.raiseError code addr).mem = s.mem := rfl
@[simp] theorem State.raiseError_platform (s : State) (code : ErrCode) (addr : Word) : (s.raiseError code addr).platform = s.platform := rfl
@[simp] theorem State.raiseError_unseen (s : State) (code : ErrCode) (addr : Word) : (s.raiseError code addr).unseen = s.unseen := rfl
@[simp] theorem State.raiseError_events (s : State) (code : ErrCode) (addr : Word) : (s.raiseError code addr).events = s.events := rfl
@[simp] theorem State.raiseError_reply (s : State) (code : ErrCode) (addr : Word) : (s.raiseError code addr).reply = s.reply := rfl
@[simp] theorem State.raiseError_draws (s : State) (code : ErrCode) (addr : Word) : (s.raiseError code addr).draws = s.draws := rfl
@[simp] theorem State.raiseError_breaches (s : State) (code : ErrCode) (addr : Word) : (s.raiseError code addr).breaches = s.breaches := rfl

@[simp] theorem State.reject_cfg (s : State) (code : ErrCode) (addr : Word) : (s.reject code addr).cfg = s.cfg := rfl
@[simp] theorem State.reject_irqEn (s : State) (code : ErrCode) (addr : Word) : (s.reject code addr).irqEn = s.irqEn := rfl
@[simp] theorem State.reject_done (s : State) (code : ErrCode) (addr : Word) : (s.reject code addr).done = true := rfl
@[simp] theorem State.reject_err (s : State) (code : ErrCode) (addr : Word) : (s.reject code addr).err = true := rfl
@[simp] theorem State.reject_wign (s : State) (code : ErrCode) (addr : Word) : (s.reject code addr).wign = s.wign := rfl
@[simp] theorem State.reject_errCode (s : State) (code : ErrCode) (addr : Word) : (s.reject code addr).errCode = code := rfl
@[simp] theorem State.reject_errAddr (s : State) (code : ErrCode) (addr : Word) : (s.reject code addr).errAddr = addr := rfl
@[simp] theorem State.reject_args (s : State) (code : ErrCode) (addr : Word) : (s.reject code addr).args = s.args := rfl
@[simp] theorem State.reject_peakIn (s : State) (code : ErrCode) (addr : Word) : (s.reject code addr).peakIn = s.peakIn := rfl
@[simp] theorem State.reject_peakOut (s : State) (code : ErrCode) (addr : Word) : (s.reject code addr).peakOut = s.peakOut := rfl
@[simp] theorem State.reject_ss (s : State) (code : ErrCode) (addr : Word) : (s.reject code addr).ss = s.ss := rfl
@[simp] theorem State.reject_ms (s : State) (code : ErrCode) (addr : Word) : (s.reject code addr).ms = s.ms := rfl
@[simp] theorem State.reject_run (s : State) (code : ErrCode) (addr : Word) : (s.reject code addr).run = s.run := rfl
@[simp] theorem State.reject_mem (s : State) (code : ErrCode) (addr : Word) : (s.reject code addr).mem = s.mem := rfl
@[simp] theorem State.reject_platform (s : State) (code : ErrCode) (addr : Word) : (s.reject code addr).platform = s.platform := rfl
@[simp] theorem State.reject_unseen (s : State) (code : ErrCode) (addr : Word) : (s.reject code addr).unseen = s.unseen := rfl
@[simp] theorem State.reject_events (s : State) (code : ErrCode) (addr : Word) : (s.reject code addr).events = s.events := rfl
@[simp] theorem State.reject_reply (s : State) (code : ErrCode) (addr : Word) : (s.reject code addr).reply = s.reply := rfl
@[simp] theorem State.reject_draws (s : State) (code : ErrCode) (addr : Word) : (s.reject code addr).draws = s.draws := rfl

@[simp] theorem State.clearError_cfg (s : State) : s.clearError.cfg = s.cfg := rfl
@[simp] theorem State.clearError_irqEn (s : State) : s.clearError.irqEn = s.irqEn := rfl
@[simp] theorem State.clearError_done (s : State) : s.clearError.done = s.done := rfl
@[simp] theorem State.clearError_err (s : State) : s.clearError.err = false := rfl
@[simp] theorem State.clearError_wign (s : State) : s.clearError.wign = s.wign := rfl
@[simp] theorem State.clearError_errCode (s : State) : s.clearError.errCode = .none := rfl
@[simp] theorem State.clearError_errAddr (s : State) : s.clearError.errAddr = 0 := rfl
@[simp] theorem State.clearError_args (s : State) : s.clearError.args = s.args := rfl
@[simp] theorem State.clearError_peakIn (s : State) : s.clearError.peakIn = s.peakIn := rfl
@[simp] theorem State.clearError_peakOut (s : State) : s.clearError.peakOut = s.peakOut := rfl
@[simp] theorem State.clearError_ss (s : State) : s.clearError.ss = s.ss := rfl
@[simp] theorem State.clearError_ms (s : State) : s.clearError.ms = s.ms := rfl
@[simp] theorem State.clearError_run (s : State) : s.clearError.run = s.run := rfl
@[simp] theorem State.clearError_mem (s : State) : s.clearError.mem = s.mem := rfl
@[simp] theorem State.clearError_platform (s : State) : s.clearError.platform = s.platform := rfl
@[simp] theorem State.clearError_unseen (s : State) : s.clearError.unseen = s.unseen := rfl
@[simp] theorem State.clearError_events (s : State) : s.clearError.events = s.events := rfl
@[simp] theorem State.clearError_reply (s : State) : s.clearError.reply = s.reply := rfl
@[simp] theorem State.clearError_draws (s : State) : s.clearError.draws = s.draws := rfl
@[simp] theorem State.clearError_breaches (s : State) : s.clearError.breaches = s.breaches := rfl

@[simp] theorem State.endCommand_cfg (s : State) : s.endCommand.cfg = s.cfg := rfl
@[simp] theorem State.endCommand_irqEn (s : State) : s.endCommand.irqEn = s.irqEn := rfl
@[simp] theorem State.endCommand_done (s : State) : s.endCommand.done = true := rfl
@[simp] theorem State.endCommand_err (s : State) : s.endCommand.err = s.err := rfl
@[simp] theorem State.endCommand_wign (s : State) : s.endCommand.wign = s.wign := rfl
@[simp] theorem State.endCommand_errCode (s : State) : s.endCommand.errCode = s.errCode := rfl
@[simp] theorem State.endCommand_errAddr (s : State) : s.endCommand.errAddr = s.errAddr := rfl
@[simp] theorem State.endCommand_args (s : State) : s.endCommand.args = s.args := rfl
@[simp] theorem State.endCommand_peakIn (s : State) : s.endCommand.peakIn = s.peakIn := rfl
@[simp] theorem State.endCommand_peakOut (s : State) : s.endCommand.peakOut = s.peakOut := rfl
@[simp] theorem State.endCommand_ss (s : State) : s.endCommand.ss = s.ss := rfl
@[simp] theorem State.endCommand_ms (s : State) : s.endCommand.ms = s.ms := rfl
@[simp] theorem State.endCommand_run (s : State) : s.endCommand.run = none := rfl
@[simp] theorem State.endCommand_mem (s : State) : s.endCommand.mem = s.mem := rfl
@[simp] theorem State.endCommand_platform (s : State) : s.endCommand.platform = s.platform := rfl
@[simp] theorem State.endCommand_unseen (s : State) : s.endCommand.unseen = s.unseen := rfl
@[simp] theorem State.endCommand_events (s : State) : s.endCommand.events = s.events := rfl
@[simp] theorem State.endCommand_reply (s : State) : s.endCommand.reply = s.reply := rfl
@[simp] theorem State.endCommand_draws (s : State) : s.endCommand.draws = s.draws := rfl
@[simp] theorem State.endCommand_breaches (s : State) : s.endCommand.breaches = s.breaches := rfl

@[simp] theorem State.freeSpan_cfg (s : State) (sp : Span) : (s.freeSpan sp).cfg = s.cfg := rfl
@[simp] theorem State.freeSpan_irqEn (s : State) (sp : Span) : (s.freeSpan sp).irqEn = s.irqEn := rfl
@[simp] theorem State.freeSpan_done (s : State) (sp : Span) : (s.freeSpan sp).done = s.done := rfl
@[simp] theorem State.freeSpan_err (s : State) (sp : Span) : (s.freeSpan sp).err = s.err := rfl
@[simp] theorem State.freeSpan_wign (s : State) (sp : Span) : (s.freeSpan sp).wign = s.wign := rfl
@[simp] theorem State.freeSpan_errCode (s : State) (sp : Span) : (s.freeSpan sp).errCode = s.errCode := rfl
@[simp] theorem State.freeSpan_errAddr (s : State) (sp : Span) : (s.freeSpan sp).errAddr = s.errAddr := rfl
@[simp] theorem State.freeSpan_args (s : State) (sp : Span) : (s.freeSpan sp).args = s.args := rfl
@[simp] theorem State.freeSpan_peakIn (s : State) (sp : Span) : (s.freeSpan sp).peakIn = s.peakIn := rfl
@[simp] theorem State.freeSpan_peakOut (s : State) (sp : Span) : (s.freeSpan sp).peakOut = s.peakOut := rfl
@[simp] theorem State.freeSpan_ss (s : State) (sp : Span) : (s.freeSpan sp).ss = s.ss := rfl
@[simp] theorem State.freeSpan_ms (s : State) (sp : Span) : (s.freeSpan sp).ms = s.ms := rfl
@[simp] theorem State.freeSpan_run (s : State) (sp : Span) : (s.freeSpan sp).run = s.run := rfl
@[simp] theorem State.freeSpan_mem (s : State) (sp : Span) : (s.freeSpan sp).mem = s.mem.scramble sp.base s.draws sp.size := rfl
@[simp] theorem State.freeSpan_platform (s : State) (sp : Span) : (s.freeSpan sp).platform = s.platform := rfl
@[simp] theorem State.freeSpan_unseen (s : State) (sp : Span) : (s.freeSpan sp).unseen = s.unseen := rfl
@[simp] theorem State.freeSpan_events (s : State) (sp : Span) : (s.freeSpan sp).events = s.events := rfl
@[simp] theorem State.freeSpan_reply (s : State) (sp : Span) : (s.freeSpan sp).reply = s.reply := rfl
@[simp] theorem State.freeSpan_draws (s : State) (sp : Span) : (s.freeSpan sp).draws = s.draws + sp.size := rfl
@[simp] theorem State.freeSpan_breaches (s : State) (sp : Span) : (s.freeSpan sp).breaches = s.breaches := rfl

@[simp] theorem State.freePeaks_cfg (s : State) : s.freePeaks.cfg = s.cfg := rfl
@[simp] theorem State.freePeaks_irqEn (s : State) : s.freePeaks.irqEn = s.irqEn := rfl
@[simp] theorem State.freePeaks_done (s : State) : s.freePeaks.done = s.done := rfl
@[simp] theorem State.freePeaks_err (s : State) : s.freePeaks.err = s.err := rfl
@[simp] theorem State.freePeaks_wign (s : State) : s.freePeaks.wign = s.wign := rfl
@[simp] theorem State.freePeaks_errCode (s : State) : s.freePeaks.errCode = s.errCode := rfl
@[simp] theorem State.freePeaks_errAddr (s : State) : s.freePeaks.errAddr = s.errAddr := rfl
@[simp] theorem State.freePeaks_args (s : State) : s.freePeaks.args = s.args := rfl
@[simp] theorem State.freePeaks_ss (s : State) : s.freePeaks.ss = s.ss := rfl
@[simp] theorem State.freePeaks_ms (s : State) : s.freePeaks.ms = s.ms := rfl
@[simp] theorem State.freePeaks_run (s : State) : s.freePeaks.run = s.run := rfl
@[simp] theorem State.freePeaks_mem (s : State) : s.freePeaks.mem = s.mem := rfl
@[simp] theorem State.freePeaks_platform (s : State) : s.freePeaks.platform = s.platform := rfl
@[simp] theorem State.freePeaks_unseen (s : State) : s.freePeaks.unseen = s.unseen := rfl
@[simp] theorem State.freePeaks_events (s : State) : s.freePeaks.events = s.events := rfl
@[simp] theorem State.freePeaks_reply (s : State) : s.freePeaks.reply = s.reply := rfl
@[simp] theorem State.freePeaks_draws (s : State) : s.freePeaks.draws = s.draws + 10 := rfl
@[simp] theorem State.freePeaks_breaches (s : State) : s.freePeaks.breaches = s.breaches := rfl

@[simp] theorem State.ignoreWrite_cfg (s : State) : s.ignoreWrite.cfg = s.cfg := rfl
@[simp] theorem State.ignoreWrite_irqEn (s : State) : s.ignoreWrite.irqEn = s.irqEn := rfl
@[simp] theorem State.ignoreWrite_done (s : State) : s.ignoreWrite.done = s.done := rfl
@[simp] theorem State.ignoreWrite_err (s : State) : s.ignoreWrite.err = s.err := rfl
@[simp] theorem State.ignoreWrite_wign (s : State) : s.ignoreWrite.wign = true := rfl
@[simp] theorem State.ignoreWrite_errCode (s : State) : s.ignoreWrite.errCode = s.errCode := rfl
@[simp] theorem State.ignoreWrite_errAddr (s : State) : s.ignoreWrite.errAddr = s.errAddr := rfl
@[simp] theorem State.ignoreWrite_args (s : State) : s.ignoreWrite.args = s.args := rfl
@[simp] theorem State.ignoreWrite_peakIn (s : State) : s.ignoreWrite.peakIn = s.peakIn := rfl
@[simp] theorem State.ignoreWrite_peakOut (s : State) : s.ignoreWrite.peakOut = s.peakOut := rfl
@[simp] theorem State.ignoreWrite_ss (s : State) : s.ignoreWrite.ss = s.ss := rfl
@[simp] theorem State.ignoreWrite_ms (s : State) : s.ignoreWrite.ms = s.ms := rfl
@[simp] theorem State.ignoreWrite_run (s : State) : s.ignoreWrite.run = s.run := rfl
@[simp] theorem State.ignoreWrite_mem (s : State) : s.ignoreWrite.mem = s.mem := rfl
@[simp] theorem State.ignoreWrite_platform (s : State) : s.ignoreWrite.platform = s.platform := rfl
@[simp] theorem State.ignoreWrite_unseen (s : State) : s.ignoreWrite.unseen = s.unseen := rfl
@[simp] theorem State.ignoreWrite_events (s : State) : s.ignoreWrite.events = s.events := rfl
@[simp] theorem State.ignoreWrite_reply (s : State) : s.ignoreWrite.reply = s.reply := rfl
@[simp] theorem State.ignoreWrite_draws (s : State) : s.ignoreWrite.draws = s.draws := rfl
@[simp] theorem State.ignoreWrite_breaches (s : State) : s.ignoreWrite.breaches = s.breaches := rfl

@[simp] theorem State.advance_cfg (s : State) (r : Run) (m : Memory) : (s.advance r m).cfg = s.cfg := rfl
@[simp] theorem State.advance_irqEn (s : State) (r : Run) (m : Memory) : (s.advance r m).irqEn = s.irqEn := rfl
@[simp] theorem State.advance_done (s : State) (r : Run) (m : Memory) : (s.advance r m).done = s.done := rfl
@[simp] theorem State.advance_err (s : State) (r : Run) (m : Memory) : (s.advance r m).err = s.err := rfl
@[simp] theorem State.advance_wign (s : State) (r : Run) (m : Memory) : (s.advance r m).wign = s.wign := rfl
@[simp] theorem State.advance_errCode (s : State) (r : Run) (m : Memory) : (s.advance r m).errCode = s.errCode := rfl
@[simp] theorem State.advance_errAddr (s : State) (r : Run) (m : Memory) : (s.advance r m).errAddr = s.errAddr := rfl
@[simp] theorem State.advance_args (s : State) (r : Run) (m : Memory) : (s.advance r m).args = s.args := rfl
@[simp] theorem State.advance_peakIn (s : State) (r : Run) (m : Memory) : (s.advance r m).peakIn = s.peakIn := rfl
@[simp] theorem State.advance_peakOut (s : State) (r : Run) (m : Memory) : (s.advance r m).peakOut = s.peakOut := rfl
@[simp] theorem State.advance_ss (s : State) (r : Run) (m : Memory) : (s.advance r m).ss = s.ss := rfl
@[simp] theorem State.advance_ms (s : State) (r : Run) (m : Memory) : (s.advance r m).ms = s.ms := rfl
@[simp] theorem State.advance_run (s : State) (r : Run) (m : Memory) : (s.advance r m).run = some { r with frame := r.frame + 1 } := rfl
@[simp] theorem State.advance_mem (s : State) (r : Run) (m : Memory) : (s.advance r m).mem = m := rfl
@[simp] theorem State.advance_platform (s : State) (r : Run) (m : Memory) : (s.advance r m).platform = s.platform := rfl
@[simp] theorem State.advance_unseen (s : State) (r : Run) (m : Memory) : (s.advance r m).unseen = s.unseen := rfl
@[simp] theorem State.advance_events (s : State) (r : Run) (m : Memory) : (s.advance r m).events = s.events := rfl
@[simp] theorem State.advance_reply (s : State) (r : Run) (m : Memory) : (s.advance r m).reply = s.reply := rfl
@[simp] theorem State.advance_draws (s : State) (r : Run) (m : Memory) : (s.advance r m).draws = s.draws := rfl
@[simp] theorem State.advance_breaches (s : State) (r : Run) (m : Memory) : (s.advance r m).breaches = s.breaches := rfl

@[simp] theorem State.acquireIf_cfg (s : State) (cond : Bool) : (s.acquireIf cond).cfg = s.cfg := rfl
@[simp] theorem State.acquireIf_irqEn (s : State) (cond : Bool) : (s.acquireIf cond).irqEn = s.irqEn := rfl
@[simp] theorem State.acquireIf_done (s : State) (cond : Bool) : (s.acquireIf cond).done = s.done := rfl
@[simp] theorem State.acquireIf_err (s : State) (cond : Bool) : (s.acquireIf cond).err = s.err := rfl
@[simp] theorem State.acquireIf_wign (s : State) (cond : Bool) : (s.acquireIf cond).wign = s.wign := rfl
@[simp] theorem State.acquireIf_errCode (s : State) (cond : Bool) : (s.acquireIf cond).errCode = s.errCode := rfl
@[simp] theorem State.acquireIf_errAddr (s : State) (cond : Bool) : (s.acquireIf cond).errAddr = s.errAddr := rfl
@[simp] theorem State.acquireIf_args (s : State) (cond : Bool) : (s.acquireIf cond).args = s.args := rfl
@[simp] theorem State.acquireIf_peakIn (s : State) (cond : Bool) : (s.acquireIf cond).peakIn = s.peakIn := rfl
@[simp] theorem State.acquireIf_peakOut (s : State) (cond : Bool) : (s.acquireIf cond).peakOut = s.peakOut := rfl
@[simp] theorem State.acquireIf_ss (s : State) (cond : Bool) : (s.acquireIf cond).ss = s.ss := rfl
@[simp] theorem State.acquireIf_ms (s : State) (cond : Bool) : (s.acquireIf cond).ms = s.ms := rfl
@[simp] theorem State.acquireIf_run (s : State) (cond : Bool) : (s.acquireIf cond).run = s.run := rfl
@[simp] theorem State.acquireIf_mem (s : State) (cond : Bool) : (s.acquireIf cond).mem = s.mem := rfl
@[simp] theorem State.acquireIf_platform (s : State) (cond : Bool) : (s.acquireIf cond).platform = s.platform := rfl
@[simp] theorem State.acquireIf_unseen (s : State) (cond : Bool) : (s.acquireIf cond).unseen = if cond then [] else s.unseen := rfl
@[simp] theorem State.acquireIf_events (s : State) (cond : Bool) : (s.acquireIf cond).events = s.events := rfl
@[simp] theorem State.acquireIf_reply (s : State) (cond : Bool) : (s.acquireIf cond).reply = s.reply := rfl
@[simp] theorem State.acquireIf_draws (s : State) (cond : Bool) : (s.acquireIf cond).draws = s.draws := rfl
@[simp] theorem State.acquireIf_breaches (s : State) (cond : Bool) : (s.acquireIf cond).breaches = s.breaches := rfl

@[simp] theorem State.badAccess_cfg (s : State) : s.badAccess.cfg = s.cfg := rfl
@[simp] theorem State.badAccess_irqEn (s : State) : s.badAccess.irqEn = s.irqEn := rfl
@[simp] theorem State.badAccess_done (s : State) : s.badAccess.done = s.done := rfl
@[simp] theorem State.badAccess_err (s : State) : s.badAccess.err = s.err := rfl
@[simp] theorem State.badAccess_wign (s : State) : s.badAccess.wign = s.wign := rfl
@[simp] theorem State.badAccess_errCode (s : State) : s.badAccess.errCode = s.errCode := rfl
@[simp] theorem State.badAccess_errAddr (s : State) : s.badAccess.errAddr = s.errAddr := rfl
@[simp] theorem State.badAccess_args (s : State) : s.badAccess.args = s.args := rfl
@[simp] theorem State.badAccess_peakIn (s : State) : s.badAccess.peakIn = s.peakIn := rfl
@[simp] theorem State.badAccess_peakOut (s : State) : s.badAccess.peakOut = s.peakOut := rfl
@[simp] theorem State.badAccess_ss (s : State) : s.badAccess.ss = s.ss := rfl
@[simp] theorem State.badAccess_ms (s : State) : s.badAccess.ms = s.ms := rfl
@[simp] theorem State.badAccess_run (s : State) : s.badAccess.run = s.run := rfl
@[simp] theorem State.badAccess_mem (s : State) : s.badAccess.mem = s.mem := rfl
@[simp] theorem State.badAccess_platform (s : State) : s.badAccess.platform = s.platform := rfl
@[simp] theorem State.badAccess_unseen (s : State) : s.badAccess.unseen = s.unseen := rfl
@[simp] theorem State.badAccess_events (s : State) : s.badAccess.events = s.events := rfl
@[simp] theorem State.badAccess_reply (s : State) : s.badAccess.reply = .error := rfl
@[simp] theorem State.badAccess_draws (s : State) : s.badAccess.draws = s.draws := rfl

@[simp] theorem State.touchIf_cfg (s : State) (cond : Bool) : (s.touchIf cond).cfg = s.cfg := rfl
@[simp] theorem State.touchIf_irqEn (s : State) (cond : Bool) : (s.touchIf cond).irqEn = s.irqEn := rfl
@[simp] theorem State.touchIf_done (s : State) (cond : Bool) : (s.touchIf cond).done = s.done := rfl
@[simp] theorem State.touchIf_err (s : State) (cond : Bool) : (s.touchIf cond).err = s.err := rfl
@[simp] theorem State.touchIf_wign (s : State) (cond : Bool) : (s.touchIf cond).wign = s.wign := rfl
@[simp] theorem State.touchIf_errCode (s : State) (cond : Bool) : (s.touchIf cond).errCode = s.errCode := rfl
@[simp] theorem State.touchIf_errAddr (s : State) (cond : Bool) : (s.touchIf cond).errAddr = s.errAddr := rfl
@[simp] theorem State.touchIf_args (s : State) (cond : Bool) : (s.touchIf cond).args = s.args := rfl
@[simp] theorem State.touchIf_peakIn (s : State) (cond : Bool) : (s.touchIf cond).peakIn = s.peakIn := rfl
@[simp] theorem State.touchIf_peakOut (s : State) (cond : Bool) : (s.touchIf cond).peakOut = s.peakOut := rfl
@[simp] theorem State.touchIf_ss (s : State) (cond : Bool) : (s.touchIf cond).ss = s.ss := rfl
@[simp] theorem State.touchIf_ms (s : State) (cond : Bool) : (s.touchIf cond).ms = s.ms := rfl
@[simp] theorem State.touchIf_mem (s : State) (cond : Bool) : (s.touchIf cond).mem = s.mem := rfl
@[simp] theorem State.touchIf_platform (s : State) (cond : Bool) : (s.touchIf cond).platform = s.platform := rfl
@[simp] theorem State.touchIf_unseen (s : State) (cond : Bool) : (s.touchIf cond).unseen = s.unseen := rfl
@[simp] theorem State.touchIf_events (s : State) (cond : Bool) : (s.touchIf cond).events = s.events := rfl
@[simp] theorem State.touchIf_reply (s : State) (cond : Bool) : (s.touchIf cond).reply = s.reply := rfl
@[simp] theorem State.touchIf_draws (s : State) (cond : Bool) : (s.touchIf cond).draws = s.draws := rfl

@[simp] theorem State.acceptCmd_cfg (s : State) : s.acceptCmd.cfg = s.cfg := rfl
@[simp] theorem State.acceptCmd_irqEn (s : State) : s.acceptCmd.irqEn = s.irqEn := rfl
@[simp] theorem State.acceptCmd_done (s : State) : s.acceptCmd.done = false := rfl
@[simp] theorem State.acceptCmd_err (s : State) : s.acceptCmd.err = false := rfl
@[simp] theorem State.acceptCmd_wign (s : State) : s.acceptCmd.wign = s.wign := rfl
@[simp] theorem State.acceptCmd_errCode (s : State) : s.acceptCmd.errCode = .none := rfl
@[simp] theorem State.acceptCmd_errAddr (s : State) : s.acceptCmd.errAddr = 0 := rfl
@[simp] theorem State.acceptCmd_args (s : State) : s.acceptCmd.args = s.args := rfl
@[simp] theorem State.acceptCmd_peakIn (s : State) : s.acceptCmd.peakIn = s.peakIn := rfl
@[simp] theorem State.acceptCmd_peakOut (s : State) : s.acceptCmd.peakOut = s.peakOut := rfl
@[simp] theorem State.acceptCmd_ss (s : State) : s.acceptCmd.ss = s.ss := rfl
@[simp] theorem State.acceptCmd_ms (s : State) : s.acceptCmd.ms = s.ms := rfl
@[simp] theorem State.acceptCmd_run (s : State) : s.acceptCmd.run = s.run := rfl
@[simp] theorem State.acceptCmd_mem (s : State) : s.acceptCmd.mem = s.mem := rfl
@[simp] theorem State.acceptCmd_platform (s : State) : s.acceptCmd.platform = s.platform := rfl
@[simp] theorem State.acceptCmd_unseen (s : State) : s.acceptCmd.unseen = s.unseen := rfl
@[simp] theorem State.acceptCmd_events (s : State) : s.acceptCmd.events = s.events := rfl
@[simp] theorem State.acceptCmd_reply (s : State) : s.acceptCmd.reply = s.reply := rfl
@[simp] theorem State.acceptCmd_draws (s : State) : s.acceptCmd.draws = s.draws := rfl
@[simp] theorem State.acceptCmd_breaches (s : State) : s.acceptCmd.breaches = s.breaches := rfl

theorem State.noteIf_false (s : State) (b : Breach) : s.noteIf false b = s := rfl

@[simp] theorem State.stereo_setStereo_same (s : State) (c : BitVec 4) (x : StereoCtx) :
    (s.setStereo c x).stereo c = x := by simp [State.stereo]

theorem State.stereo_setStereo_ne (s : State) {c d : BitVec 4} (x : StereoCtx) (h : d ≠ c) :
    (s.setStereo c x).stereo d = s.stereo d := by
  simp only [State.stereo, State.setStereo_ss]
  exact Vector.getElem_set_ne _ _ (fun e => h (BitVec.eq_of_toNat_eq e.symm))

@[simp] theorem State.mono_setMono_same (s : State) (c : BitVec 4) (x : MonoCtx) :
    (s.setMono c x).mono c = x := by simp [State.mono]

theorem State.mono_setMono_ne (s : State) {c d : BitVec 4} (x : MonoCtx) (h : d ≠ c) :
    (s.setMono c x).mono d = s.mono d := by
  simp only [State.mono, State.setMono_ms]
  exact Vector.getElem_set_ne _ _ (fun e => h (BitVec.eq_of_toNat_eq e.symm))

@[simp] theorem State.stereo_setMono (s : State) (c d : BitVec 4) (x : MonoCtx) :
    (s.setMono c x).stereo d = s.stereo d := rfl

@[simp] theorem State.mono_setStereo (s : State) (c d : BitVec 4) (x : StereoCtx) :
    (s.setStereo c x).mono d = s.mono d := rfl

end Sys2Proof.Machine
end

