-- ==== Sys2Proof/Laws/Operands.lean ====
section
/-! SUPPORT. What submitting a command can do: the checks of R123 said once, the acceptance of a legal command, and the
rejection of any other. -/

namespace Sys2Proof.Machine

/-- A submitted command always answers a next state: its own acceptance, or a rejection with the first failing check. -/
theorem submit_cases (c : Checks) (s : State) (accept : State → State) :
    (c.firstError = none ∧ submit c s accept = .next (accept s)) ∨
    ∃ code addr, c.firstError = some (code, addr) ∧ submit c s accept = .next (s.reject code addr) := by
  unfold submit
  cases h : c.firstError with
  | none => exact .inl ⟨rfl, rfl⟩
  | some e => exact .inr ⟨e.1, e.2, rfl, rfl⟩

/-- All seven checks of R123 pass. -/
theorem Checks.firstError_eq_none_iff (c : Checks) :
    c.firstError = none ↔
      c.present = true ∧ c.ctxOk = true ∧ c.countOk = true ∧ (∀ g ∈ c.gains, validGain g.2 = true) ∧
      ∀ r ∈ c.regions, r.isNull = false ∧ r.misaligned = false ∧ r.outOfRange = false := by
  unfold Checks.firstError
  cases hp : c.present <;> cases hc : c.ctxOk <;> cases hn : c.countOk <;> simp
  cases hg : c.gains.find? (fun g => !validGain g.2) with
  | some g =>
    have h1 := List.find?_some hg
    have h2 := List.mem_of_find?_eq_some hg
    simp only [reduceCtorEq, false_iff, not_and]
    intro h
    simp [h g.1 g.2 h2] at h1
  | none =>
    have hgv : ∀ g ∈ c.gains, validGain g.2 = true := by simpa using hg
    cases hu : c.regions.find? Region.isNull with
    | some r =>
      have h1 := List.find?_some hu
      have h2 := List.mem_of_find?_eq_some hu
      simp only [reduceCtorEq, false_iff, not_and]
      intro _ h
      simp [(h r h2).1] at h1
    | none =>
      cases ha : c.regions.find? Region.misaligned with
      | some r =>
        have h1 := List.find?_some ha
        have h2 := List.mem_of_find?_eq_some ha
        simp only [reduceCtorEq, false_iff, not_and]
        intro _ h
        simp [(h r h2).2.1] at h1
      | none =>
        cases hr : c.regions.find? Region.outOfRange with
        | some r =>
          have h1 := List.find?_some hr
          have h2 := List.mem_of_find?_eq_some hr
          simp only [reduceCtorEq, false_iff, not_and]
          intro _ h
          simp [(h r h2).2.2] at h1
        | none =>
          simp only [List.find?_eq_none, Bool.not_eq_true] at hu ha hr
          simp only [true_iff]
          exact ⟨fun a b h => hgv (a, b) h, fun r h => ⟨hu r h, ha r h, hr r h⟩⟩

/-- The error codes a check can give (R121): neither NONE nor ERR_BUS. -/
theorem Checks.firstError_code {c : Checks} {code : ErrCode} {addr : Word} (h : c.firstError = some (code, addr)) :
    code ≠ .none ∧ code ≠ .bus := by
  unfold Checks.firstError at h
  repeat' split at h
  all_goals first
    | (simp only [Option.some.injEq, Prod.mk.injEq] at h; obtain ⟨rfl, -⟩ := h; decide)
    | cases h

/-- The legality of regions, region by region. -/
theorem regionsLegal_iff (rs : List Region) :
    regionsLegal rs = true ↔
      ∀ r ∈ rs, r.isNull = false ∧ r.misaligned = false ∧ r.outOfRange = false := by
  simp only [regionsLegal, List.all_eq_true]
  refine forall_congr' fun r => forall_congr' fun _ => ?_
  by_cases hp : r.ptr = 0#32
  · simp [Region.isNull, Region.misaligned, Region.outOfRange, Region.used, hp]
  · simp [Region.isNull, Region.misaligned, Region.outOfRange, Region.used, Region.bytes, hp]

/-- The checks a command's meaning submits. -/
def checksOf (i : Instr) (s : State) : Checks :=
  match i with
  | .sinit ctx => sinitChecks ctx s
  | .smix ctx _ => smixChecks ctx s
  | .minit ctx => minitChecks ctx s
  | .mmix ctx _ => mmixChecks ctx s
  | .fxenc => fxencChecks s
  | .fxdec => fxdecChecks s
  | .f2s16 => f2s16Checks s
  | .p2s16 => p2s16Checks s
  | .s162f => s162fChecks s
  | .ilv => ilvChecks s
  | .dilv => dilvChecks s

/-- What an accepted command's meaning does in the step of the CMD write (R126, R127). -/
def acceptance (i : Instr) (s : State) : State :=
  match i with
  | .sinit ctx => (s.setStereo ctx StereoCtx.init).endCommand
  | .minit ctx => (s.setMono ctx MonoCtx.init).endCommand
  | i => s.startRun i (regionsOf i s.args)

theorem exec_eq_submit (i : Instr) (s : State) : exec i s = submit (checksOf i s) s (acceptance i) := by
  cases i <;> rfl

/-- The meanings' checks are the conditions of R121 and R123. -/
theorem checksOf_none_iff (i : Instr) (s : State) : (checksOf i s).firstError = none ↔ i.accepted s = true := by
  rw [Checks.firstError_eq_none_iff]
  unfold Instr.accepted
  simp only [Bool.and_eq_true, regionsLegal_iff]
  cases i <;>
    simp [checksOf, sinitChecks, smixChecks, minitChecks, mmixChecks, fxencChecks, fxdecChecks, f2s16Checks,
      p2s16Checks, s162fChecks, ilvChecks, dilvChecks, bufferChecks, Instr.wellFormed, countLegal, gainsLegal,
      regionsOf, Args.countIn, stereoGains, monoGains, Fin.forall_fin_succ, and_assoc]

/-- An accepted command answers its own acceptance. -/
theorem exec_of_accepted {i : Instr} {s : State} (h : i.accepted s = true) : exec i s = .next (acceptance i s) := by
  rw [exec_eq_submit, submit, (checksOf_none_iff i s).2 h]

/-- An accepted command that runs enters RUNNING. -/
theorem exec_of_accepted_runs {i : Instr} {s : State} (hr : i.runs = true) (h : i.accepted s = true) :
    exec i s = .next (s.startRun i (regionsOf i s.args)) := by
  rw [exec_of_accepted h]
  cases i <;> first | rfl | cases hr

/-- A command that is not accepted is rejected, with a code of R121. -/
theorem exec_of_not_accepted {i : Instr} {s : State} (h : i.accepted s = false) :
    ∃ code addr, code ≠ .none ∧ code ≠ .bus ∧ exec i s = .next (s.reject code addr) := by
  have hne : (checksOf i s).firstError ≠ none := fun e => by simp [(checksOf_none_iff i s).1 e] at h
  rcases submit_cases (checksOf i s) s (acceptance i) with ⟨e, -⟩ | ⟨code, addr, e, hs⟩
  · exact absurd e hne
  · exact ⟨code, addr, (Checks.firstError_code e).1, (Checks.firstError_code e).2, by rw [exec_eq_submit, hs]⟩

/-- A meter region is never in exact in-place form (R102). -/
theorem exactInPlace_meter {o : Region} (i : Region) (h : o.isMeter = true) : exactInPlace o i = false := by
  simp [exactInPlace, h]

/-- Some failing access can be met first exactly when some access fails: a read waits for nothing. -/
theorem firstFailures_eq_nil_iff (platform : List Area) (rs : List Region) :
    firstFailures platform rs = [] ↔ failures platform rs = [] := by
  refine ⟨fun h => ?_, fun h => by simp [firstFailures, h]⟩
  simp only [firstFailures, List.filter_eq_nil_iff, Bool.not_eq_true', Bool.not_eq_false, List.any_eq_true] at h
  refine List.eq_nil_iff_forall_not_mem.2 fun f hf => ?_
  obtain ⟨g, hg, hw⟩ := h f hf
  obtain ⟨g', -, hw'⟩ := h g hg
  simp only [FailedAccess.waitsFor, Bool.and_eq_true, Bool.not_eq_true'] at hw hw'
  simp [hw.1.2] at hw'

/-- A failing access that can be met first waits for no failing read (R58, R129). -/
theorem mem_firstFailures {platform : List Area} {rs : List Region} {f : FailedAccess} :
    f ∈ firstFailures platform rs ↔
      f ∈ failures platform rs ∧
      (f.write = true → ∀ g ∈ failures platform rs, g.write = false → f.frame ≠ none ∧ f.frame ≠ g.frame) := by
  simp only [firstFailures, List.mem_filter, Bool.not_eq_true', List.any_eq_false, FailedAccess.waitsFor, Bool.and_eq_true,
    Bool.or_eq_true, beq_iff_eq, not_and, not_or]
  constructor
  · rintro ⟨hf, h⟩
    exact ⟨hf, fun hw g hg hr => h g hg ⟨hw, hr⟩⟩
  · rintro ⟨hf, h⟩
    exact ⟨hf, fun g hg hw => h hw.1 g hg hw.2⟩

/-- What memory can have in store: missing margins, no failure, or one of the failures that can be met first. -/
theorem fateOf_cases (platform : List Area) (rs : List Region) (draw : Nat) :
    (marginsAdmitted platform rs = false ∧ fateOf platform rs draw = .noMargin) ∨
    (marginsAdmitted platform rs = true ∧ failures platform rs = [] ∧ fateOf platform rs draw = .completes) ∨
    ∃ f ∈ firstFailures platform rs, marginsAdmitted platform rs = true ∧
      fateOf platform rs draw = if f.kind = .silent then .noResponse else .busError (BitVec.ofNat 32 f.addr) := by
  cases hm : marginsAdmitted platform rs with
  | false => exact .inl ⟨rfl, by simp [fateOf, hm]⟩
  | true =>
    cases hf : firstFailures platform rs with
    | nil => exact .inr (.inl ⟨rfl, (firstFailures_eq_nil_iff _ _).1 hf, by simp [fateOf, hm, hf]⟩)
    | cons f fs =>
      have hlt : Config.freeChoice draw % (fs.length + 1) < (f :: fs).length := by
        simpa using Nat.mod_lt (Config.freeChoice draw) (Nat.succ_pos fs.length)
      refine .inr (.inr ⟨(f :: fs)[Config.freeChoice draw % (fs.length + 1)], List.getElem_mem hlt, rfl, ?_⟩)
      simp only [fateOf, hm, hf, if_true, List.getD_eq_getElem _ _ hlt]

/-- The start of an undisturbed command: nothing changes but the engine. -/
theorem startRun_of_undisturbed {i : Instr} {s : State} (h : i.undisturbed s = true) :
    s.startRun i (regionsOf i s.args) =
      { s with
        run := some
          { instr := i, frame := 0, acc := Vector.replicate 2 0, maxIn := Vector.replicate 8 0,
            maxOut := Vector.replicate 2 0, fate := .completes, dirty := false } } := by
  simp only [Instr.undisturbed, Bool.and_eq_true, Bool.not_eq_true', List.isEmpty_iff] at h
  obtain ⟨⟨⟨ho, hd⟩, hf⟩, hm⟩ := h
  have hfate : fateOf s.platform (regionsOf i s.args) s.draws = .completes := by
    simp [fateOf, hm, (firstFailures_eq_nil_iff _ _).2 hf]
  simp [State.startRun, hfate, ho, hd, State.noteIf]

end Sys2Proof.Machine
end

