-- ==== Sys2Proof/Laws/Engine.lean ====
section
/-! SUPPORT. What the engine's turns can do. -/

namespace Sys2Proof.Machine

@[simp] theorem engineTurns_zero (s : State) : engineTurns 0 s = s := rfl

theorem engineTurns_succ (k : Nat) (s : State) : engineTurns (k + 1) s = engineTurns k (engineTurn s) := rfl

theorem engineTurns_add (j k : Nat) (s : State) : engineTurns (j + k) s = engineTurns k (engineTurns j s) := by
  induction j generalizing s with
  | zero => simp
  | succ j ih => rw [Nat.succ_add, engineTurns_succ, ih, ← engineTurns_succ]

theorem engineTurns_last (k : Nat) (s : State) : engineTurns (k + 1) s = engineTurn (engineTurns k s) := by
  rw [engineTurns_add]; rfl

theorem engineTurn_idle {s : State} (h : s.run = none) : engineTurn s = s := by simp [engineTurn, h]

theorem engineTurns_idle {s : State} (h : s.run = none) (k : Nat) : engineTurns k s = s := by
  induction k with
  | zero => rfl
  | succ k ih => rw [engineTurns_succ, engineTurn_idle h, ih]

/-- What a turn can be: nothing, an abort, a frame, or the completion. -/
theorem engineTurn_cases (s : State) :
    (engineTurn s = s ∧ ∀ r, s.run = some r → r.fate = .noMargin ∨ r.fate = .noResponse) ∨
    (∃ r addr, s.run = some r ∧ r.fate = .busError addr ∧ engineTurn s = abortRun addr r s) ∨
    (∃ r, s.run = some r ∧ r.fate = .completes ∧ r.frame < s.args.n ∧ engineTurn s = frameTurn r s) ∨
    (∃ r, s.run = some r ∧ r.fate = .completes ∧ s.args.n ≤ r.frame ∧ engineTurn s = completeRun r s) := by
  unfold engineTurn
  cases hr : s.run with
  | none => exact .inl ⟨rfl, fun r h => by cases h⟩
  | some r =>
    cases hf : r.fate with
    | noMargin => exact .inl ⟨by simp [hf], fun r' h => by cases h; exact .inl hf⟩
    | noResponse => exact .inl ⟨by simp [hf], fun r' h => by cases h; exact .inr hf⟩
    | busError addr => exact .inr (.inl ⟨r, addr, rfl, hf, by simp [hf]⟩)
    | completes =>
      by_cases h : r.frame < s.args.n
      · exact .inr (.inr (.inl ⟨r, rfl, hf, h, by simp [h, hf]⟩))
      · exact .inr (.inr (.inr ⟨r, rfl, hf, by omega, by simp [h, hf]⟩))

/-- Two states that agree on what no engine turn changes. -/
def SameHostSide (s t : State) : Prop :=
  t.cfg = s.cfg ∧ t.irqEn = s.irqEn ∧ t.wign = s.wign ∧ t.args = s.args ∧ t.platform = s.platform ∧
  t.events = s.events ∧ t.reply = s.reply

theorem SameHostSide.refl (s : State) : SameHostSide s s := ⟨rfl, rfl, rfl, rfl, rfl, rfl, rfl⟩

theorem SameHostSide.trans {s t u : State} (h : SameHostSide s t) (k : SameHostSide t u) : SameHostSide s u := by
  obtain ⟨a, b, c, d, e, f, g⟩ := h
  obtain ⟨a', b', c', d', e', f', g'⟩ := k
  exact ⟨a'.trans a, b'.trans b, c'.trans c, d'.trans d, e'.trans e, f'.trans f, g'.trans g⟩

/-- Making spans free changes memory and the count of draws only. -/
theorem foldl_freeSpan (sps : List Span) (s : State) :
    sps.foldl State.freeSpan s =
      { s with mem := (sps.foldl State.freeSpan s).mem, draws := (sps.foldl State.freeSpan s).draws } := by
  induction sps generalizing s with
  | nil => rfl
  | cons sp sps ih =>
    rw [List.foldl_cons]
    conv_lhs => rw [ih]
    rfl

/-- Making "out" regions free changes memory and the count of draws only. -/
theorem freeOut_eq (s : State) (rs : List Region) :
    s.freeOut rs = { s with mem := (s.freeOut rs).mem, draws := (s.freeOut rs).draws } :=
  foldl_freeSpan _ s

/-- Making "out" regions free leaves every other byte. -/
theorem readByte_freeOut_outside (s : State) {rs : List Region} {a : Nat} (h : inSpans (outSpans rs) a = false) :
    (s.freeOut rs).mem.readByte a = s.mem.readByte a := by
  unfold State.freeOut
  generalize outSpans rs = sps at h
  induction sps generalizing s with
  | nil => rfl
  | cons sp sps ih =>
    simp only [inSpans, List.any_cons, Bool.or_eq_false_iff] at h
    rw [List.foldl_cons, ih _ h.2]
    refine Memory.readByte_scramble_outside _ _ _ _ ?_
    have := h.1
    simp only [Span.has, Bool.and_eq_false_iff, decide_eq_false_iff_not] at this
    omega

@[simp] theorem State.abandoned_idle {s : State} (h : s.run = none) : s.abandoned = [] := by simp [State.abandoned, h]

@[simp] theorem State.abandoned_running {s : State} {r : Run} (h : s.run = some r) : s.abandoned = s.runRegions r := by
  simp [State.abandoned, h]

/-- A reset of an IDLE block keeps memory and the host's view of it. -/
theorem resetBlock_idle {s : State} (h : s.run = none) :
    resetBlock s = { State.reset with
      cfg := s.cfg, mem := s.mem, platform := s.platform, unseen := s.unseen, events := s.events, reply := s.reply,
      draws := s.draws, breaches := s.breaches } := by
  simp only [resetBlock, State.abandoned_idle h]
  rfl

/-- A reset changes no byte outside the "out" regions of the command it abandons. -/
theorem readByte_resetBlock_outside {s : State} {a : Nat} (h : inSpans (outSpans s.abandoned) a = false) :
    (resetBlock s).mem.readByte a = s.mem.readByte a :=
  readByte_freeOut_outside s h

theorem frameTurn_sameHostSide (r : Run) (s : State) : SameHostSide s (frameTurn r s) := by
  unfold frameTurn
  split <;> exact ⟨rfl, rfl, rfl, rfl, rfl, rfl, rfl⟩

/-- What a frame does to the run, and what it leaves (R145 H8): only memory and the hidden state change. -/
theorem frameTurn_run (r : Run) (s : State) (h : r.instr.runs = true) :
    ∃ r', frameTurn r s = { s with mem := (frameTurn r s).mem, run := some r' } ∧ r'.instr = r.instr ∧
      r'.frame = r.frame + 1 ∧ r'.fate = r.fate ∧ r'.dirty = r.dirty := by
  unfold frameTurn
  cases hi : r.instr <;> simp only [hi, Instr.runs, Bool.false_eq_true] at h ⊢ <;> exact ⟨_, rfl, hi, rfl, rfl, rfl⟩

theorem completionWrites_sameHostSide (r : Run) (s : State) : SameHostSide s (completionWrites r s) := by
  unfold completionWrites
  split <;> exact ⟨rfl, rfl, rfl, rfl, rfl, rfl, rfl⟩

theorem spoilIf_sameHostSide (s : State) (d : Bool) (rs : List Region) : SameHostSide s (s.spoilIf d rs) := by
  unfold State.spoilIf
  split
  · rw [freeOut_eq]; exact ⟨rfl, rfl, rfl, rfl, rfl, rfl, rfl⟩
  · exact SameHostSide.refl s

/-- No turn of the engine changes the configuration, IRQ_EN, WIGN, an argument register, the platform, the pending inputs
or the host's reply (R41). -/
theorem engineTurn_sameHostSide (s : State) : SameHostSide s (engineTurn s) := by
  rcases engineTurn_cases s with ⟨h, -⟩ | ⟨r, addr, -, -, h⟩ | ⟨r, -, -, -, h⟩ | ⟨r, -, -, -, h⟩
  · rw [h]; exact SameHostSide.refl s
  · rw [h, abortRun, freeOut_eq]
    cases r.dirty <;> exact ⟨rfl, rfl, rfl, rfl, rfl, rfl, rfl⟩
  · rw [h]; exact frameTurn_sameHostSide r s
  · rw [h]
    exact (completionWrites_sameHostSide r s).trans
      ((spoilIf_sameHostSide _ r.dirty (s.runRegions r)).trans ⟨rfl, rfl, rfl, rfl, rfl, rfl, rfl⟩)

theorem engineTurns_sameHostSide (k : Nat) (s : State) : SameHostSide s (engineTurns k s) := by
  induction k generalizing s with
  | zero => exact SameHostSide.refl s
  | succ k ih => exact (engineTurn_sameHostSide s).trans (ih _)

end Sys2Proof.Machine
end

