-- ==== Sys2Proof/Laws/PerInstr.lean ====
section
/-! SUPPORT. Per command: its word decodes to it (30_encoding.md R68 to R70). -/

namespace Sys2Proof.Laws.RoundTrip

/-- The decoder reads a command's word as that command. -/
def Statement (i : Instr) : Prop := decode (encode i) = some i

theorem sinit : ∀ ctx, Statement (.sinit ctx) := by unfold Statement; decide
theorem smix : ∀ ctx fx, Statement (.smix ctx fx) := by unfold Statement; decide
theorem minit : ∀ ctx, Statement (.minit ctx) := by unfold Statement; decide
theorem mmix : ∀ ctx fx, Statement (.mmix ctx fx) := by unfold Statement; decide
theorem fxenc : Statement .fxenc := by unfold Statement; decide
theorem fxdec : Statement .fxdec := by unfold Statement; decide
theorem f2s16 : Statement .f2s16 := by unfold Statement; decide
theorem p2s16 : Statement .p2s16 := by unfold Statement; decide
theorem s162f : Statement .s162f := by unfold Statement; decide
theorem ilv : Statement .ilv := by unfold Statement; decide
theorem dilv : Statement .dilv := by unfold Statement; decide

end Sys2Proof.Laws.RoundTrip
end

