-- ==== Sys2Proof/Tests/Slice0.lean ====
section
/-! SUPPORT. The model's own tests: ill-formed commands refused, command words written out bit by bit, vectors of
95_test_vectors.md, and for each statement with hypotheses a named witness that they can be met. -/

namespace Sys2Proof.Tests

open Sys2Proof.Machine

set_option Elab.async false

/-! ## Helpers -/

/-- One more context than configured, and no layout option. -/
def bareCfg : Config := { stereoCtx := 1, monoCtx := 1, layoutOps := false, regPage := 0x40001 }

/-- 1.0. -/
def one : Word := 0x3F800000

/-- Legal arguments for every command: 8 frames, two sources, two destinations, both meters, all gains 1.0. -/
def demoArgs : Args :=
  { count := 8, inp := #v[0x1000, 0x2000, 0, 0], out := #v[0x3000, 0x3800], imtr := 0x4000, omtr := 0x5000
    gin := Vector.replicate 8 one, gout := Vector.replicate 2 one }

/-- Reset with those arguments. -/
def demo : State := { State.reset with args := demoArgs }

/-- `demo` with another COUNT. -/
def counted (n : Word) : State := { demo with args := { demoArgs with count := n } }

/-- A state running `i` at frame `k`. -/
def running (i : Instr) (k : Nat) (fate : Fate) : State :=
  { demo with
    run := some
      { instr := i, frame := k, acc := Vector.replicate 2 0, maxIn := Vector.replicate 8 0,
        maxOut := Vector.replicate 2 0, fate := fate, dirty := false } }

/-- Consecutive words from an address. -/
def words (m : Memory) (a : Nat) : List Word → Memory
  | [] => m
  | w :: ws => words (m.writeWord a w) (a + 4) ws

/-- What a test looks at in the next state. -/
def after {α : Type} (o : Host.Outcome State Fault Refusal) (f : State → α) : Option α :=
  match o with
  | .next t => some (f t)
  | .fault _ => none
  | .refused _ => none

/-- The result of a command: STATUS and ERRADDR. -/
def record (s : State) : Word × Word := (s.statusWord, s.errAddr)

/-- The command register written. -/
def cmdOf (s : State) (w : Word) : State := { s with events := [.write (windowAddr s.cfg 0x010) .word w] }

/-! ## Well-formedness: one ill-formed command for each check -/

theorem test_wellFormed_refuses :
    (Instr.sinit 1).wellFormed Config.reference = false ∧ (Instr.smix 1 true).wellFormed Config.reference = false ∧
    (Instr.minit 15).wellFormed Config.reference = false ∧ (Instr.mmix 1 false).wellFormed Config.reference = false ∧
    Instr.ilv.wellFormed bareCfg = false ∧ Instr.dilv.wellFormed bareCfg = false := by decide

theorem test_wellFormed_accepts :
    (Instr.smix 0 true).wellFormed Config.reference = true ∧ Instr.ilv.wellFormed Config.reference = true ∧
    Instr.fxenc.wellFormed bareCfg = true := by decide

/-! ## Decoding: words written from the bit pattern of R68 and the codes of R69 -/

theorem test_decode_sinit : decode 0b0000000000000000_0101_000_0_00000001#32 = some (.sinit 5) := by decide
theorem test_decode_smix : decode 0b0000000000000000_0011_000_1_00000010#32 = some (.smix 3 true) := by decide
theorem test_decode_minit : decode 0b0000000000000000_0010_000_0_00000011#32 = some (.minit 2) := by decide
theorem test_decode_mmix : decode 0b0000000000000000_1000_000_0_00000100#32 = some (.mmix 8 false) := by decide
theorem test_decode_fxenc : decode 0b0000000000000000_0000_000_0_00010000#32 = some .fxenc := by decide
theorem test_decode_fxdec : decode 0b0000000000000000_0000_000_0_00010001#32 = some .fxdec := by decide
theorem test_decode_f2s16 : decode 0b0000000000000000_0000_000_0_00100000#32 = some .f2s16 := by decide
theorem test_decode_p2s16 : decode 0b0000000000000000_0000_000_0_00100001#32 = some .p2s16 := by decide
theorem test_decode_s162f : decode 0b0000000000000000_0000_000_0_00100010#32 = some .s162f := by decide
theorem test_decode_ilv : decode 0b0000000000000000_0000_000_0_00100011#32 = some .ilv := by decide
theorem test_decode_dilv : decode 0b0000000000000000_0000_000_0_00100100#32 = some .dilv := by decide

/-- R75's examples. -/
theorem test_encode_examples :
    encode (.smix 3 true) = 0x00003102 ∧ encode (.mmix 0 true) = 0x00000104 ∧ encode (.minit 2) = 0x00002003 := by
  decide

/-- R73: a reserved bit, FX on a converter, CTX on a converter, a stray zero. -/
theorem test_decode_refuses :
    decode 0x00000401 = none ∧ decode 0x80000010 = none ∧ decode 0x00000110 = none ∧ decode 0x0000F020 = none ∧
    decode 0 = none ∧ decode 0x00000005 = none ∧ decode 0x00000025 = none := by decide

/-- No two rows of R70 select the same word. -/
theorem test_rows_are_disjoint :
    opcodeRows.Pairwise (fun x y => x.pattern &&& y.mask ≠ y.pattern &&& x.mask) := by decide

/-! ## Numerics: vectors V-DP-* -/

/-- V-DP-01, V-DP-09. -/
theorem test_ramp :
    ramp one 0 4 1 = 0x3F2AAAAA ∧ ramp one 0 4 2 = 0x3EAAAAAA ∧ ramp 5 0 8 4 = 1 ∧ ramp 5 0 8 6 = 0 ∧
    ramp 0 0x7F7FFFFF 3 1 = 0x7EFFFFFF := by decide +kernel

/-- V-DP-16. -/
theorem test_float :
    fadd 0x7F7FFFFF 0x7F7FFFFF = 0x7F800000 ∧ fmul 0x7F800000 0 = canonNaN ∧ fadd one 0xBF800000 = 0 ∧
    fmul 1 0x3F000000 = 0 ∧ fmul 3 0x3F000000 = 2 ∧ fadd 0x7F800001 one = canonNaN := by decide +kernel

/-- V-DP-11. -/
theorem test_peakUpd :
    peakUpd 0 0xBF400000 = 0x3F400000 ∧ peakUpd 0x3F400000 canonNaN = 0x3F400000 ∧
    peakUpd 0x3F000000 0xFF800000 = 0x7F800000 ∧ peakUpd 0 0x80000000 = 0 := by decide +kernel

/-- V-DP-12 to V-DP-15, V-FX-02, V-FX-03. -/
theorem test_conversions :
    fxEnc 0xBF800000 = 0xFF000000 ∧ fxEnc 0x43000000 = 0x7FFFFFFF ∧ fxEnc 0x33C00000 = 2 ∧
    fxDec 0x7FFFFFFF = 0x43000000 ∧ fxDec 0x01000001 = one ∧ s16Enc one = 0x7FFF ∧ s16Enc 0xC0400000 = 0x8000 ∧
    s16Dec 0x7FFF = 0x3F7FFE00 ∧ s16Dec 0xFFFF = 0xB8000000 := by decide +kernel

/-! ## Memory -/

theorem test_reset_memory_wf : State.reset.mem.wf = true ∧ State.reset.mem.inSpace = true := by decide

/-- R13, R47: the least significant byte lies lowest; a zero byte leaves no entry. -/
theorem test_little_endian :
    Memory.writeWord [] 0xFFFFFFFC 0x11220044 = [(0xFFFFFFFC, 0x44), (0xFFFFFFFE, 0x22), (0xFFFFFFFF, 0x11)] := by
  decide

/-! ## One step of each command -/

/-- V-REG-07: SINIT completes at once. -/
theorem test_sinit :
    after (exec (.sinit 0) { demo with ss := demo.ss.set 0 ⟨Vector.replicate 8 0x3E800000, #v[0, 0]⟩ })
      (fun t => (record t, (t.stereo 0).inp[0], (t.stereo 0).out[1], t.busy)) =
        some ((0x02, 0), one, one, false) := by decide

theorem test_minit :
    after (exec (.minit 0) { demo with ms := demo.ms.set 0 ⟨#v[0, 0, 0, 0x3E800000], 0⟩ })
      (fun t => (record t, (t.mono 0).inp[3], (t.mono 0).out)) = some ((0x02, 0), one, one) := by decide

/-- V-SM-11: a null OUT0 is ERR_NULL at 0x30. -/
theorem test_smix_null :
    after (exec (.smix 0 false) { demo with args := { demoArgs with out := #v[0, 0] } }) record = some (0x56, 0x30) := by
  decide

/-- A frame of V-SM-06 with smix.fx: the sum overflows and the fixed-point output saturates. -/
theorem test_smix_frame :
    let s := running (.smix 0 true) 0 .completes
    let s := { s with
      args := { demoArgs with out := #v[0x3000, 0] }
      mem := words (words [] 0x1000 [0x7F7FFFFF, 0xFF7FFFFF]) 0x2000 [0x7F7FFFFF, 0xFF7FFFFF] }
    after (step s) (fun t => (t.mem.readWord 0x3000, t.mem.readWord 0x3004)) = some (0x7FFFFFFF, 0x80000000) := by
  decide +kernel

/-- The completion of SMIX (R101, V-SM-10): a null slot takes its target too. -/
theorem test_smix_completion :
    let s := running (.smix 0 false) 8 .completes
    let s := { s with args := { demoArgs with inp := #v[0, 0x2000, 0, 0], gin := #v[0x41100000, 0x41100000, one, one, 0, 0, 0, 0] } }
    after (step s) (fun t => (record t, (t.stereo 0).inp[0], (t.stereo 0).inp[4])) =
      some ((0x02, 0), 0x41100000, 0) := by decide +kernel

/-- V-MM-04: COUNT 10 is ERR_COUNT. -/
theorem test_mmix_count : after (exec (.mmix 0 false) (counted 10)) record = some (0x36, 0) := by decide

/-- V-MM-03: the last sample of mmix.fx. -/
theorem test_mmix_frame :
    let s := running (.mmix 0 true) 7 .completes
    let s := { s with
      args := { demoArgs with inp := #v[0x1000, 0, 0, 0], gin := #v[one, 0, 0, 0, 0, 0, 0, 0], gout := #v[0x40000000, 0] }
      mem := words [] 0x101C [0x3E800000] }
    after (step s) (fun t => t.mem.readWord 0x301C) = some 0x00800000 := by decide +kernel

/-- V-FX-05: COUNT 4097 is ERR_COUNT and 4096 is accepted. -/
theorem test_fxenc_count :
    after (exec .fxenc (counted 4097)) record = some (0x36, 0) ∧
    after (exec .fxenc (counted 4096)) (fun t => t.statusWord) = some 0x01 := by decide +kernel

/-- V-FX-04: one word in place. -/
theorem test_fxenc_frame :
    let s := { running .fxenc 1 .completes with
      args := { demoArgs with count := 2, out := #v[0x1000, 0] }, mem := words [] 0x1000 [one, 0xBF000000] }
    after (step s) (fun t => (t.mem.readWord 0x1000, t.mem.readWord 0x1004)) = some (one, 0xFF800000) := by
  decide +kernel

/-- V-FX-03. -/
theorem test_fxdec_frame :
    let s := { running .fxdec 3 .completes with mem := words [] 0x100C [0x01000001] }
    after (step s) (fun t => t.mem.readWord 0x300C) = some one := by decide +kernel

/-- V-CV-01: frame 1. -/
theorem test_f2s16_frame :
    let s := { running .f2s16 1 .completes with mem := words [] 0x1008 [one, 0xBF800000] }
    after (step s) (fun t => (t.mem.readHalf 0x3004, t.mem.readHalf 0x3006)) = some (0x7FFF, 0x8000) := by
  decide +kernel

/-- V-CV-06: COUNT 3 is ERR_COUNT. -/
theorem test_f2s16_count : after (exec .f2s16 (counted 3)) record = some (0x36, 0) := by decide

/-- V-CV-02: frame 0. -/
theorem test_p2s16_frame :
    let s := { running .p2s16 0 .completes with mem := words (words [] 0x1000 [0x3F000000]) 0x2000 [0xBF000000] }
    after (step s) (fun t => (t.mem.readHalf 0x3000, t.mem.readHalf 0x3002)) = some (0x4000, 0xC000) := by
  decide +kernel

/-- V-CV-06: a null IN1 is ERR_NULL at 0x24. -/
theorem test_p2s16_null :
    after (exec .p2s16 { demo with args := { demoArgs with inp := #v[0x1000, 0, 0, 0] } }) record =
      some (0x56, 0x24) := by decide

/-- V-CV-03: frame 2. -/
theorem test_s162f_frame :
    let s := { running .s162f 2 .completes with mem := words [] 0x1008 [0xFFFF0001] }
    after (step s) (fun t => (t.mem.readWord 0x3010, t.mem.readWord 0x3014)) = some (0x38000000, 0xB8000000) := by
  decide +kernel

/-- V-CV-06: an odd IN0 is ERR_ALIGN with its value. -/
theorem test_s162f_align :
    after (exec .s162f { demo with args := { demoArgs with inp := #v[0x2001, 0, 0, 0] } }) record =
      some (0x66, 0x2001) := by decide

/-- V-CV-04: frame 1 keeps a signalling NaN bit-exactly. -/
theorem test_ilv_frame :
    let s := { running .ilv 1 .completes with mem := words (words [] 0x1004 [0x7F800001]) 0x2004 [0x40000000] }
    after (step s) (fun t => (t.mem.readWord 0x3008, t.mem.readWord 0x300C)) = some (0x7F800001, 0x40000000) := by
  decide +kernel

/-- V-CV-06: without the layout option ILV is ERR_BADOP. -/
theorem test_ilv_absent :
    after (step (cmdOf { demo with cfg := bareCfg } 0x00000023)) record = some (0x16, 0) := by decide +kernel

/-- V-CV-05: frame 1. -/
theorem test_dilv_frame :
    let s := { running .dilv 1 .completes with mem := words [] 0x1008 [0x40400000, 0x40800000] }
    after (step s) (fun t => (t.mem.readWord 0x3004, t.mem.readWord 0x3804)) = some (0x40400000, 0x40800000) := by
  decide +kernel

/-- V-CV-06: a null OUT1 is ERR_NULL at 0x34. -/
theorem test_dilv_null :
    after (exec .dilv { demo with args := { demoArgs with out := #v[0x3000, 0] } }) record = some (0x56, 0x34) := by
  decide

/-- V-REG-04: a write of CMD while BUSY starts nothing and sets WIGN. -/
theorem test_busy_lock :
    after (step (cmdOf (running .fxenc 0 .completes) 0x00000001)) (fun t => (t.statusWord, t.run.map Run.frame)) =
      some (0x09, some 0) := by decide +kernel

/-- R102: at COUNT 4 an IMTR that equals IN0 has IN0's base, element size and count, and is an overlap all the same;
IN0 = OUT0 is the exact in-place form. -/
theorem test_meter_overlap :
    overlaps (smixRegions { demoArgs with count := 4, imtr := 0x1000 }) = true ∧
    overlaps (smixRegions { demoArgs with count := 4, out := #v[0x1000, 0] }) = false := by decide +kernel

/-- R58, R129: with IN0 absent and OUT0 silent, only the read of FXENC's one word can be met. -/
theorem test_first_failure :
    (firstFailures [{ span := { base := 0x1000, size := 4 }, kind := .absent }, { span := { base := 0x3000, size := 4 }, kind := .silent }]
      (fxencRegions { demoArgs with count := 1 })).map (fun f => (f.addr, f.kind)) = [(0x1000, .absent)] := by decide +kernel

/-- R58, R101: a failing read bars the meter writes and its own frame's writes, and leaves a later frame's. -/
theorem test_first_failure_meters :
    (firstFailures
      [{ span := { base := 0x1000, size := 8 }, kind := .absent }, { span := { base := 0x3000, size := 8 }, kind := .silent },
        { span := { base := 0x5000, size := 8 }, kind := .silent }]
      (smixRegions demoArgs)).map (fun f => (f.addr, f.kind)) =
        [(0x1000, .absent), (0x1004, .absent), (0x3004, .silent)] := by decide +kernel

/-- R140, R59: what an abandoned command may have written is unordered with the host after the reset. -/
theorem test_reset_unseen :
    (resetBlock (running .fxenc 3 .completes)).unseen = [{ base := 0x3000, size := 32 }] ∧
    (resetBlock demo).unseen = [] := by decide +kernel

/-- R27, R121: STATUS after a reported ERR_BUS, with WIGN set. -/
theorem test_status_word :
    after (serve { demo with done := true, err := true, wign := true, errCode := .bus } (.read 0x0000000C .word))
      (fun t => t.reply) = some (.data 0x8E) := by decide +kernel

/-- A command placed for the next step is run by it. -/
theorem test_withFetchWord :
    after (step (State.reset.withFetchWord 32 0x00000001)) record = some (0x02, 0) ∧
    decodeTableWord 32 0x00000001 = some (.sinit 0) := by decide +kernel

/-! ## Witnesses: concrete states and operands that meet a statement's hypotheses, at the ends of their ranges -/

theorem witness_DecodeReadsExactlyTheEncodedWords :
    decode 0x0000F102 = some (.smix 15 true) ∧ 0x0000F102 = encode (.smix 15 true) ∧ decode 0x00000100 = none := by decide

theorem witness_StepServesOldestInput :
    ({ demo with events := [.engine, .reset] } : State).events = .engine :: [.reset] ∧
    (demo.events = [] ∧ demo.run = none) ∧
    ∃ r, (running .fxenc 0 .completes).events = [] ∧ (running .fxenc 0 .completes).run = some r ∧
      r.fate ≠ .noMargin ∧ r.fate ≠ .noResponse :=
  ⟨rfl, ⟨rfl, rfl⟩, _, rfl, rfl, by decide, by decide⟩

theorem witness_CmdWriteRunsDecodedCommand :
    (cmdOf demo 0x00000102).events = .write (windowAddr demo.cfg 0x010) .word 0x00000102 :: [] ∧
    (cmdOf demo 0x00000102).run = none ∧ decode 0x00000102 = some (.smix 0 true) := by decide

/-- One word for each reason of R73. -/
theorem witness_IllegalWordsAreRejected :
    demo.run = none ∧ decode 0x00000000 = none ∧ decode 0x00000802 = none ∧ decode 0x00010002 = none ∧
    decode 0x00000103 = none ∧ decode 0x00001011 = none ∧
    (0x00000012#32).extractLsb' 0 8 ∉ [0x01#8, 0x02#8, 0x03#8, 0x04#8, 0x10#8, 0x11#8, 0x20#8, 0x21#8, 0x22#8, 0x23#8, 0x24#8] ∧
    (0x00000802#32).extractLsb' 9 3 ≠ 0 ∧ (0x00010002#32).extractLsb' 16 16 ≠ 0 ∧
    (0x00000103#32).getLsbD 8 = true ∧ (0x00001011#32).extractLsb' 12 4 ≠ 0 := by decide

theorem witness_LayoutWordsAreIllegalWithoutTheOption :
    let s : State := { demo with cfg := bareCfg }
    s.cfg.layoutOps = false ∧ s.run = none := by decide

theorem witness_BusyLockIgnoresWrites :
    (running .fxenc 0 .completes).busy = true ∧ isArgOffset 0x014 = true ∧ isArgOffset 0x020 = true ∧
    isArgOffset 0x064 = true ∧ isArgOffset 0x010 = false ∧ isArgOffset 0x068 = false ∧
    (0x00000001#32).getLsbD 1 = false ∧ (0x0000000A#32).getLsbD 2 = false ∧ (0xFFC#12).toNat % 4 = 0 := by decide

theorem witness_OtherAccessesGetAnErrorResponse :
    (AccessSize.byte ≠ .word ∧ (0x00C#12).toNat % 4 = 0) ∧ (AccessSize.word = .word ∧ (0xFFF#12).toNat % 4 ≠ 0) := by decide

/-- The first and the last offset of every range, and the mapped offsets beside them. -/
theorem witness_UnmappedOffsetsReadZero :
    (∀ o ∈ [0x01C, 0x068, 0x07C, 0x0A8, 0x0FC, 0x128, 0x13C, 0x140, 0x4FC, 0x514, 0x51C, 0x520, 0x6FC, 0x700, 0xFFC],
      isUnmappedOffset Config.reference o = true) ∧
    (∀ o ∈ [0x000, 0x018, 0x020, 0x064, 0x080, 0x0A4, 0x100, 0x124, 0x500, 0x510],
      isUnmappedOffset Config.reference o = false) := by decide

theorem witness_ArgumentRegistersHoldWhatIsWritten :
    demo.busy = false ∧ isArgOffset (0x014#12).toNat = true ∧ isArgOffset (0x064#12).toNat = true := by decide

theorem witness_ReadOnlyRegistersIgnoreWrites :
    (0x000#12).toNat % 4 = 0 ∧ (0x004#12).toNat % 4 = 0 ∧ (0x018#12).toNat % 4 = 0 ∧
    (0x080 ≤ (0x080#12).toNat ∧ (0x080#12).toNat % 4 = 0) ∧ ((0x6FC#12).toNat < 0x700 ∧ (0x6FC#12).toNat % 4 = 0) := by
  decide

theorem witness_ResultRegistersReadAtTheirOffsets :
    demo.cfg.valid = true ∧ (0#4).toNat < demo.cfg.stereoCtx ∧ (0#4).toNat < demo.cfg.monoCtx := by decide

theorem witness_ResetRestoresTheTable :
    (0x00000003#32).getLsbD 1 = true ∧ demo.run = none ∧
    ∃ r, (running .fxenc 3 .completes).run = some r ∧
      inSpans (outSpans ((running .fxenc 3 .completes).runRegions r)) 0x3020 = false ∧
      inSpans (outSpans ((running .fxenc 3 .completes).runRegions r)) 0x301F = true :=
  ⟨by decide, rfl, _, rfl, by decide, by decide⟩

theorem witness_CommandIsAcceptedOrPreciselyRejected :
    ((Instr.smix 0 false).accepted demo = true ∧ (Instr.smix 0 false).runs = true) ∧
    ((Instr.sinit 0).accepted demo = true ∧ (Instr.sinit 0).runs = false) ∧
    (Instr.smix 1 false).accepted demo = false ∧ (Instr.mmix 0 false).accepted (counted 9) = false := by decide +kernel

theorem witness_MissingContextIsErrCtx :
    demo.cfg.stereoCtx ≤ (1#4).toNat ∧ demo.cfg.monoCtx ≤ (15#4).toNat := by decide

theorem witness_CountOutOfRangeIsErrCount :
    (0#4).toNat < demo.cfg.stereoCtx ∧ (counted 1).args.count.toNat < 2 ∧ 2048 < (counted 2049).args.count.toNat ∧
    (0#4).toNat < demo.cfg.monoCtx ∧ (counted 7).args.count.toNat < 8 ∧ (counted 9).args.count.toNat % 4 ≠ 0 ∧
    (counted 0).args.count.toNat < 1 ∧ 4096 < (counted 0x00010001).args.count.toNat ∧
    (counted 3).args.count.toNat < 4 ∧ (counted 0).cfg.layoutOps = true := by decide

/-- The first gain wrong, the last gain wrong, each output gain wrong. -/
theorem witness_InvalidGainIsErrGain :
    ((0#4).toNat < demo.cfg.stereoCtx ∧ (0#4).toNat < demo.cfg.monoCtx ∧ 8 ≤ demo.args.count.toNat ∧
      demo.args.count.toNat ≤ 2048 ∧ demo.args.count.toNat % 4 = 0) ∧
    (let g : Vector Word 8 := demoArgs.gin.set 7 0x80000000;
      (∀ l : Fin 8, l < 7 → validGain g[l] = true) ∧ validGain g[(7 : Fin 8)] = false) ∧
    (let g : Vector Word 8 := demoArgs.gin.set 3 0x7F800000;
      (∀ l : Fin 4, l < 3 → validGain g[l.val] = true) ∧ validGain g[(3 : Fin 4).val] = false) ∧
    ((∀ l : Fin 8, validGain demoArgs.gin[l] = true) ∧ (∀ l : Fin 4, validGain demoArgs.gin[l.val] = true) ∧
      validGain (#v[0xBF800000, one] : Vector Word 2)[0] = false ∧ validGain (#v[one, 0x7FC00000] : Vector Word 2)[0] = true ∧
      validGain (#v[one, 0x7FC00000] : Vector Word 2)[1] = false) := by decide +kernel

theorem witness_NullPointerIsErrNull :
    let a : Args := { demoArgs with inp := #v[0x1000, 0, 0, 0] }
    let s : State := { demo with args := a }
    Instr.p2s16.wellFormed s.cfg = true ∧ countLegal .p2s16 s.args.n = true ∧ gainsLegal .p2s16 s.args = true ∧
    regionsOf .p2s16 s.args =
      [srcRegion a 0 4 1 true 8] ++ srcRegion a 1 4 1 true 8 :: [dstRegion a 0 2 2 true 16] ∧
    (∀ q ∈ [srcRegion a 0 4 1 true 8], q.required = true → q.ptr ≠ 0) ∧
    (srcRegion a 1 4 1 true 8).required = true ∧ (srcRegion a 1 4 1 true 8).ptr = 0 := by decide +kernel

/-- A missing IN0, OUT0 and OUT1, with what stands before each present. -/
theorem witness_NullPointerIsErrNull_registers :
    (Instr.dilv.wellFormed demo.cfg = true ∧ countLegal .dilv demo.args.n = true ∧ gainsLegal .dilv demo.args = true) ∧
    (let a : Args := { demoArgs with inp := #v[0, 0, 0, 0] };
      Instr.dilv ∈ [Instr.fxenc, .fxdec, .f2s16, .p2s16, .s162f, .ilv, .dilv] ∧ a.inp[0] = 0) ∧
    (let a : Args := { demoArgs with out := #v[0, 0x3800] };
      Instr.dilv.runs = true ∧ (∀ q ∈ regionsOf .dilv a, q.out = false → q.required = true → q.ptr ≠ 0) ∧
      a.out[0] = 0) ∧
    (let a : Args := { demoArgs with out := #v[0x3000, 0] };
      a.inp[0] ≠ 0 ∧ a.out[0] ≠ 0 ∧ a.out[1] = 0) := by decide +kernel

theorem witness_MisalignedPointerIsErrAlign :
    let a : Args := { demoArgs with out := #v[0x3002, 0] }
    let s : State := { demo with args := a }
    Instr.fxenc.wellFormed s.cfg = true ∧ countLegal .fxenc s.args.n = true ∧ gainsLegal .fxenc s.args = true ∧
    (∀ q ∈ regionsOf .fxenc s.args, q.required = true → q.ptr ≠ 0) ∧
    regionsOf .fxenc s.args = [srcRegion a 0 4 1 true 0] ++ dstRegion a 0 4 1 true 0 :: [] ∧
    (∀ q ∈ [srcRegion a 0 4 1 true 0], q.ptr.toNat % q.elem = 0) ∧
    (dstRegion a 0 4 1 true 0).ptr.toNat % (dstRegion a 0 4 1 true 0).elem ≠ 0 := by decide +kernel

/-- The last word of the address space is in range; one word more is not. -/
theorem witness_RegionPastTheTopIsErrRange :
    let a : Args := { demoArgs with inp := #v[0xFFFFFFE0, 0, 0, 0], out := #v[0xFFFFFFE4, 0] }
    let s : State := { demo with args := a }
    Instr.fxenc.wellFormed s.cfg = true ∧ countLegal .fxenc s.args.n = true ∧ gainsLegal .fxenc s.args = true ∧
    (∀ q ∈ regionsOf .fxenc s.args, q.required = true → q.ptr ≠ 0) ∧
    (∀ q ∈ regionsOf .fxenc s.args, q.ptr.toNat % q.elem = 0) ∧
    regionsOf .fxenc s.args = [srcRegion a 0 4 1 true 0] ++ dstRegion a 0 4 1 true 0 :: [] ∧
    (∀ q ∈ [srcRegion a 0 4 1 true 0], q.ptr = 0 ∨ q.ptr.toNat + q.elem * q.count ≤ 2 ^ 32) ∧
    (dstRegion a 0 4 1 true 0).ptr ≠ 0 ∧
    2 ^ 32 < (dstRegion a 0 4 1 true 0).ptr.toNat + (dstRegion a 0 4 1 true 0).elem * (dstRegion a 0 4 1 true 0).count := by
  decide +kernel

theorem witness_SinitSetsItsContextToOne : demo.run = none ∧ (0#4).toNat < demo.cfg.stereoCtx := by decide

theorem witness_MinitSetsItsContextToOne : demo.run = none ∧ (0#4).toNat < demo.cfg.monoCtx := by decide

/-- Split output with both meters, and in place with neither. -/
theorem witness_SmixMixesTheBlock :
    (demo.run = none ∧ (Instr.smix 0 true).accepted demo = true ∧ (Instr.smix 0 true).undisturbed demo = true ∧
      demo.args.imtr ≠ 0 ∧ demo.args.omtr ≠ 0) ∧
    (let s : State := { demo with args := { demoArgs with count := 2, out := #v[0x1000, 0], imtr := 0, omtr := 0 } };
      (Instr.smix 0 false).accepted s = true ∧ (Instr.smix 0 false).undisturbed s = true) := by decide +kernel

theorem witness_MmixMixesTheBlock :
    demo.run = none ∧ (Instr.mmix 0 true).accepted demo = true ∧ (Instr.mmix 0 true).undisturbed demo = true := by decide +kernel

/-- Apart and in place. -/
theorem witness_FxencEncodesEveryWord :
    (demo.run = none ∧ Instr.fxenc.accepted demo = true ∧ Instr.fxenc.undisturbed demo = true) ∧
    (let s : State := { demo with args := { demoArgs with count := 1, out := #v[0x1000, 0] } };
      Instr.fxenc.accepted s = true ∧ Instr.fxenc.undisturbed s = true) := by decide +kernel

theorem witness_FxdecDecodesEveryWord :
    demo.run = none ∧ Instr.fxdec.accepted demo = true ∧ Instr.fxdec.undisturbed demo = true := by decide +kernel

theorem witness_F2s16EncodesEverySample :
    demo.run = none ∧ Instr.f2s16.accepted demo = true ∧ Instr.f2s16.undisturbed demo = true := by decide +kernel

theorem witness_P2s16InterleavesAndEncodes :
    demo.run = none ∧ Instr.p2s16.accepted demo = true ∧ Instr.p2s16.undisturbed demo = true := by decide +kernel

theorem witness_S162fDecodesEverySample :
    demo.run = none ∧ Instr.s162f.accepted demo = true ∧ Instr.s162f.undisturbed demo = true := by decide +kernel

theorem witness_IlvInterleavesBitExactly :
    demo.run = none ∧ Instr.ilv.accepted demo = true ∧ Instr.ilv.undisturbed demo = true := by decide +kernel

theorem witness_DilvSplitsBitExactly :
    demo.run = none ∧ Instr.dilv.accepted demo = true ∧ Instr.dilv.undisturbed demo = true := by decide +kernel

theorem witness_reset_gains : State.reset.gainsValid := by
  unfold State.gainsValid; decide +kernel

theorem witness_SilentInputsGiveSilence :
    let s : State := { demo with args := { demoArgs with inp := #v[0, 0, 0, 0] } }
    s.run = none ∧ s.gainsValid ∧ (Instr.smix 0 true).accepted s = true ∧ (Instr.smix 0 true).undisturbed s = true ∧
    (∀ k : Fin 4, s.args.inp[k] = 0) ∧ s.args.imtr ≠ 0 ∧ s.args.omtr ≠ 0 :=
  ⟨rfl, witness_reset_gains, by decide +kernel, by decide +kernel, by decide, by decide, by decide⟩

theorem witness_SettledGainsMixLinearly :
    (Instr.smix 0 false).accepted demo = true ∧
    demo.stereo 0 = { inp := demo.args.gin, out := demo.args.gout } ∧ 7 < demo.args.n := by decide +kernel

/-- Memory that answers, and memory with an absent word at the end of OUT0. -/
def holed : State := { demo with platform := [{ span := { base := 0x301C, size := 4 }, kind := .absent }] }

theorem witness_AcceptedCommandEnds :
    (Instr.fxenc.runs = true ∧ Instr.fxenc.accepted demo = true ∧ demo.err = false ∧
      fateOf demo.platform (regionsOf .fxenc demo.args) demo.draws ≠ .noMargin ∧
      fateOf demo.platform (regionsOf .fxenc demo.args) demo.draws ≠ .noResponse) ∧
    failures holed.platform (regionsOf .fxenc holed.args) =
      [{ addr := 0x301C, write := true, frame := some 7, kind := .absent }] := by decide +kernel

theorem witness_BusErrorAborts :
    Instr.fxenc.runs = true ∧ Instr.fxenc.accepted holed = true ∧
    marginsAdmitted holed.platform (regionsOf .fxenc holed.args) = true ∧
    failures holed.platform (regionsOf .fxenc holed.args) ≠ [] ∧
    (∀ f ∈ failures holed.platform (regionsOf .fxenc holed.args),
      (f.write = true → ∀ g ∈ failures holed.platform (regionsOf .fxenc holed.args), g.write = false →
        f.frame ≠ none ∧ f.frame ≠ g.frame) → f.kind ≠ .silent) ∧
    overlaps (regionsOf .fxenc holed.args) = false ∧
    meetsDevice holed.platform (regionsOf .fxenc holed.args) = false := by decide +kernel

/-- F2S16's 32-byte output margin starts at 0x3020. -/
theorem witness_MissingMarginsLeaveTheCommandStuck :
    let s : State := { demo with platform := [{ span := { base := 0x303F, size := 1 }, kind := .absent }] }
    Instr.f2s16.runs = true ∧ Instr.f2s16.accepted s = true ∧
    marginsAdmitted s.platform (regionsOf .f2s16 s.args) = false ∧ failures s.platform (regionsOf .f2s16 s.args) = [] := by
  decide +kernel

/-- An overlap shifted by one word, and none. -/
theorem witness_OverlapSpoilsOnlyOutputsAndPeaks :
    let s : State := { demo with args := { demoArgs with out := #v[0x1004, 0] } }
    (Instr.mmix 0 false).runs = true ∧ (Instr.mmix 0 false).accepted s = true ∧ s.run = none ∧
    failures s.platform (regionsOf (.mmix 0 false) s.args) = [] ∧
    marginsAdmitted s.platform (regionsOf (.mmix 0 false) s.args) = true ∧
    overlaps (regionsOf (.mmix 0 false) s.args) = true ∧ overlaps (regionsOf (.mmix 0 false) demo.args) = false := by
  decide +kernel

theorem witness_EngineWritesOnlyOutRegions :
    demo.run = none ∧ (∃ t, exec (.smix 0 false) demo = .next t ∧ t.busy = true) ∧
    inSpans (outSpans (regionsOf (.smix 0 false) demo.args)) 0x1000 = false :=
  ⟨rfl, ⟨_, rfl, by decide +kernel⟩, by decide +kernel⟩

/-- The frame and the completion of an accepted command, with a byte outside its output. -/
theorem witness_EngineWritesOnlyOutRegions_turn (k : Nat) (h : k = 3 ∨ k = 8) :
    let s := running .fxenc k .completes
    s.runSound ∧ s.events = [] ∧
    ∃ r, s.run = some r ∧ inSpans (outSpans (s.runRegions r)) 0x3020 = false ∧ ∃ t, step s = .next t := by
  rcases h with rfl | rfl <;>
  · refine ⟨fun r hr => ?_, rfl, _, rfl, by decide +kernel, _, rfl⟩
    cases hr
    exact ⟨by decide, by decide +kernel, by decide, by decide, by decide⟩

theorem witness_HostTouchIsRecorded :
    let s := running .fxenc 0 .completes
    ∃ r, s.run = some r ∧ inSpans (usedSpans (s.runRegions r)) (0x101F#32).toNat = true ∧
      inSpans (outSpans (s.runRegions r)) (0x3000#32).toNat = true ∧
      inSpans (outSpans (s.runRegions r)) (0x1000#32).toNat = false ∧ inSpans s.unseen (0x1000#32).toNat = false :=
  ⟨_, rfl, by decide, by decide, by decide, by decide⟩

/-- A marked command at a frame, at its completion and before its abort. -/
theorem witness_HostTouchIsRecorded_marked (k : Nat) (fate : Fate) :
    let s := running .fxenc k fate
    let r : Run :=
      { instr := .fxenc, frame := k, acc := Vector.replicate 2 0, maxIn := Vector.replicate 8 0,
        maxOut := Vector.replicate 2 0, fate := fate, dirty := true }
    let s' : State := { s with run := some r }
    s'.run = some r ∧ r.instr.runs = true ∧ r.dirty = true ∧ s'.args.n = 8 ∧
    inSpans (outSpans (s'.runRegions r)) 0x3000 = true ∧ inSpans (outSpans (s'.runRegions r)) 0x301F = true ∧
    (k = 7 → r.frame < s'.args.n) ∧ (k = 8 → s'.args.n ≤ r.frame) :=
  ⟨rfl, rfl, rfl, rfl, rfl, rfl, fun h => by subst h; exact (by decide : 7 < 8),
    fun h => by subst h; exact (by decide : 8 ≤ 8)⟩

theorem witness_StatusReadAcquires :
    let s : State := { demo with done := true, unseen := [{ base := 0x3000, size := 32 }] }
    s.run = none ∧ s.done = true ∧ inSpans s.unseen 0x301F = true := by decide

/-- The invariant holds while a command runs: one step from there. -/
theorem witness_EveryStepKeepsTheInvariant :
    (running .fxenc 3 .completes).Inv ∧
    step (running .fxenc 3 .completes) = .next (engineTurn (running .fxenc 3 .completes)) := by
  refine ⟨⟨by decide, by decide, by decide, witness_reset_gains, ?_, ⟨by decide, by decide⟩⟩, rfl⟩
  intro r hr
  cases hr
  exact ⟨by decide, by decide +kernel, by decide, by decide, by decide⟩

theorem witness_EveryStepKeepsMemoryCanonical :
    ∃ t, demo.mem.wf = true ∧ step { demo with events := [.store 0x1000 7] } = .next t ∧ t.mem = [(0x1000, 7)] :=
  ⟨_, by decide, rfl, by decide⟩

theorem witness_SmoothingGainsStayValid :
    (running (.smix 0 false) 8 .completes).gainsValid ∧ (running (.smix 0 false) 8 .completes).runSound ∧
    step (running (.smix 0 false) 8 .completes) = .next (engineTurn (running (.smix 0 false) 8 .completes)) := by
  refine ⟨witness_reset_gains, ?_, rfl⟩
  intro r hr
  cases hr
  exact ⟨by decide, by decide +kernel, by decide, by decide, by decide⟩

/-- An answered command, over its first and its last turn before completion. -/
theorem witness_ExecLeavesArgumentsAndMemory :
    (∃ t, exec (.mmix 0 true) demo = .next t ∧ t.busy = true) ∧ (Instr.mmix 0 true).runs = true ∧
    (Instr.mmix 0 true).accepted demo = true ∧ failures demo.platform (regionsOf (.mmix 0 true) demo.args) = [] ∧
    marginsAdmitted demo.platform (regionsOf (.mmix 0 true) demo.args) = true ∧ 0 ≤ demo.args.n ∧ 8 ≤ demo.args.n :=
  ⟨⟨_, rfl, by decide +kernel⟩, by decide +kernel⟩

theorem witness_ContextsAreIndependent :
    (1#4) ≠ 0 ∧ demo.run = none ∧ (∃ t, exec (.smix 0 false) demo = .next t ∧ t.busy = true) ∧
    ∃ t, exec (.mmix 0 false) demo = .next t ∧ t.busy = true :=
  ⟨by decide, rfl, ⟨_, rfl, by decide +kernel⟩, ⟨_, rfl, by decide +kernel⟩⟩

theorem witness_ControlIgnoresSampleData : demo.run = none := rfl

/-- Operands of each kind: a sum and a difference that are zero and not zero, a quotient by 0 and not, infinities of equal
and of opposite sign, an infinity with 0 and with 1.0, and a NaN. -/
theorem witness_RoundingIsToNearestEven_operands :
    f32 one = .fin false (2 ^ 149) ∧ f32 0xBF800000 = .fin true (2 ^ 149) ∧ f32 1 = .fin false 1 ∧ f32 0 = .fin false 0 ∧
    signed false (2 ^ 149) + signed true (2 ^ 149) = 0 ∧ signed false (2 ^ 149) + signed false 1 ≠ 0 ∧
    signed false 1 - signed false 1 = 0 ∧ signed false 1 - signed true (2 ^ 149) ≠ 0 ∧
    f32 0x7F800000 = .inf false ∧ f32 0xFF800000 = .inf true ∧ isNaN 0x7F800001 = true := by decide +kernel

/-- A tie that goes to the even magnitude, and the overflow threshold. -/
theorem witness_RoundingIsToNearestEven :
    0 < 1 ∧ roundMag (2 ^ 25 + 2) 1 = 0x01800000 ∧ roundMag (2 ^ 25 + 6) 1 = 0x01800002 ∧
    roundMag ((2 ^ 25 - 1) * 2 ^ 252) 1 = 0x7F800000 ∧ roundMag ((2 ^ 25 - 1) * 2 ^ 252 - 1) 1 = 0x7F7FFFFF := by
  decide +kernel

theorem witness_EveryNaNResultIsCanonical :
    isNaN (fadd 0x7F800000 0xFF800000) = true ∧ isNaN (fsub 0x7F800000 0x7F800000) = true ∧
    isNaN (fmul 0 0x7F800000) = true ∧ isNaN (fdiv 0x7F800000 0x7F800000) = true ∧
    isNaN (outWord false 0x7F800001) = true := by decide +kernel

theorem witness_RampMeetsItsEndPoints :
    validGain 0 = true ∧ validGain 0x7F7FFFFF = true ∧ (2 ≤ 2 ∧ 2048 ≤ 2048) ∧ 1 < 2 := by decide +kernel

theorem witness_RampValuesAreValidGains :
    validGain 5 = true ∧ validGain 0 = true ∧ 2 ≤ 8 ∧ 8 ≤ 2048 ∧ 6 < 8 := by decide +kernel

/-- Values in [-1, 32767.5/32768), and one above. -/
theorem witness_SixteenBitRoundTripBound :
    f32 0xBF800000 = .fin true (2 ^ 149) ∧ -(2 : Int) ^ 149 ≤ signed true (2 ^ 149) ∧
    signed true (2 ^ 149) < 65535 * 2 ^ 133 ∧ f32 0x3F7FFF00 = .fin false (65535 * 2 ^ 133) ∧
    65535 * 2 ^ 133 ≤ signed false (65535 * 2 ^ 133) ∧ signed false (65535 * 2 ^ 133) < 2 ^ 149 := by decide +kernel

theorem witness_FixedPointRoundTrip :
    f32 0xC3000000 = .fin true (2 ^ 156) ∧ -(2 : Int) ^ 156 ≤ signed true (2 ^ 156) ∧ signed true (2 ^ 156) < 2 ^ 156 ∧
    2 ^ 125 ∣ 2 ^ 156 ∧ 2 ^ 148 ≤ 2 ^ 156 ∧ f32 0x80000000 = .fin true 0 ∧ f32 0x3F000000 = .fin false (2 ^ 148) := by decide +kernel

/-- An integer below 2^24, one above that a binary32 value is exact for, and one that must be rounded. -/
theorem witness_FixedPointRoundTrip_integers :
    (0x00FFFFFF#32).toInt.natAbs < 2 ^ 24 ∧ valueOf 0x43000000 * 2 ^ 24 = 2 ^ 31 * 2 ^ 149 ∧
    valueOf 0xC3000000 * 2 ^ 24 = (0x80000000#32).toInt * 2 ^ 149 ∧
    ¬ (0x01000001#32).toInt.natAbs < 2 ^ 24 := by decide +kernel

theorem witness_EncodersSaturate :
    f32 0x43000000 = .fin false (2 ^ 156) ∧ f32 0xC3480000 = .fin true (200 * 2 ^ 149) ∧ isNaN 0x7F800001 = true := by
  decide +kernel

end Sys2Proof.Tests
end

section
/-! SUPPORT. The register window: which register each offset reaches (10_state.md R17 to R23), what a read answers and a
write does there, and the statements about it. -/

namespace Sys2Proof.Machine

/-- A concatenation as a number: the left part above the right one. -/
theorem toNat_append_eq_add {m n : Nat} (x : BitVec m) (y : BitVec n) :
    (x ++ y).toNat = x.toNat * 2 ^ n + y.toNat := by
  rw [BitVec.toNat_append, ← Nat.shiftLeft_add_eq_or_of_lt y.isLt, Nat.shiftLeft_eq]

/-- A host access inside the window reaches the register at its offset if it is a 32-bit access at a multiple of 4
(R17, R18). -/
theorem portAccess_windowAddr (cfg : Config) (o : BitVec 12) (size : AccessSize) :
    portAccess cfg (windowAddr cfg o) size =
      if size ≠ .word ∨ o.toNat % 4 ≠ 0 then .bad else .reg (regAt cfg o.toNat) := by
  have hpage : (windowAddr cfg o).extractLsb' 12 20 = cfg.regPage := by
    apply BitVec.eq_of_toNat_eq
    simp only [windowAddr, BitVec.extractLsb'_toNat, toNat_append_eq_add, Nat.shiftRight_eq_div_pow]
    omega
  have haddr : (windowAddr cfg o).toNat = cfg.regPage.toNat * 2 ^ 12 + o.toNat := toNat_append_eq_add _ _
  have hmod : (windowAddr cfg o).toNat % 2 ^ 12 = o.toNat := by omega
  have hfour : (windowAddr cfg o).toNat % 4 = o.toNat % 4 := by omega
  simp only [portAccess, hpage, ne_eq, not_true_eq_false, if_false, hmod, hfour]

/-- A 32-bit read at a multiple of 4 answers the register's value; a STATUS read may acquire (R17, R59). -/
theorem serve_read_window (s : State) {o : BitVec 12} (ho : o.toNat % 4 = 0) :
    serve s (.read (windowAddr s.cfg o) .word) =
      .next (({ s with reply := .data (readReg s (regAt s.cfg o.toNat)) }).acquireIf
        (decide (regAt s.cfg o.toNat = Reg.status) && !s.busy && s.done)) := by
  simp only [serve, portRead, portAccess_windowAddr, ho, ne_eq, not_true_eq_false, or_self, if_false]

/-- A 32-bit read of any register but STATUS answers its value and changes nothing else. -/
theorem serve_read_reg (s : State) {o : BitVec 12} (r : Reg) {w : Word} (ho : o.toNat % 4 = 0)
    (hreg : regAt s.cfg o.toNat = r) (hr : r ≠ .status) (hw : readReg s r = w) :
    serve s (.read (windowAddr s.cfg o) .word) = .next { s with reply := .data w } := by
  subst hreg hw
  rw [serve_read_window s ho, decide_eq_false hr]
  rfl

/-- A STATUS read answers the STATUS word, and acquires if it sees BUSY = 0 and DONE = 1 (R27, R59). -/
theorem serve_read_status (s : State) :
    serve s (.read (windowAddr s.cfg 0x00C) .word) =
      .next (({ s with reply := .data s.statusWord }).acquireIf (!s.busy && s.done)) :=
  serve_read_window s rfl

/-- A 32-bit write at a multiple of 4 reaches the register's own write (R17, R28). -/
theorem serve_write_window (s : State) {o : BitVec 12} (ho : o.toNat % 4 = 0) (v : Word) :
    serve s (.write (windowAddr s.cfg o) .word v) =
      if regAt s.cfg o.toNat = .cmd then writeCmd { s with reply := .ok } v
      else .next (writeReg { s with reply := .ok } (regAt s.cfg o.toNat) v) := by
  simp only [serve, portWrite, portAccess_windowAddr, ho, ne_eq, not_true_eq_false, or_self, if_false]

/-- An access in the window of another size or alignment gets the error response (R18). -/
theorem serve_window_bad (s : State) {o : BitVec 12} {size : AccessSize} (h : size ≠ .word ∨ o.toNat % 4 ≠ 0)
    (v : Word) :
    serve s (.read (windowAddr s.cfg o) size) = .next s.badAccess ∧
    serve s (.write (windowAddr s.cfg o) size v) = .next s.badAccess := by
  simp only [serve, portRead, portWrite, portAccess_windowAddr, if_pos h, and_self]

/-! ### What a write of each kind of register does -/

/-- What a STATUS write clears (R27), by the bit of ERR, which clears a whole record. -/
theorem writeStatus_eq (s : State) (v : Word) :
    s.writeStatus v = { s with
      done := if v.getLsbD 1 then false else s.done
      wign := if v.getLsbD 3 then false else s.wign
      err := if v.getLsbD 2 then false else s.err
      errCode := if v.getLsbD 2 then .none else s.errCode
      errAddr := if v.getLsbD 2 then 0 else s.errAddr } := by
  unfold State.writeStatus
  generalize v.getLsbD 1 = done1, v.getLsbD 2 = err1, v.getLsbD 3 = wign1
  cases err1
  · cases done1 <;> cases wign1 <;> simp
  · cases done1 <;> cases wign1 <;> simp [State.clearError]

theorem Reg.ne_of_isArg {r r' : Reg} (h : r.isArg = true) (h' : r'.isArg = false) : r ≠ r' := by
  rintro rfl; simp [h] at h'

/-- A write to an argument register while BUSY sets WIGN and nothing else (R21). -/
theorem writeReg_arg_busy {s : State} {r : Reg} (hr : r.isArg = true) (hb : s.busy = true) (v : Word) :
    writeReg s r v = { s with wign := true } := by
  simp [writeReg, hr, hb, State.ignoreWrite]

/-- A write to an argument register while IDLE changes the arguments alone (R21). -/
theorem writeReg_arg_idle {s : State} {r : Reg} (hr : r.isArg = true) (hb : s.busy = false) (v : Word) :
    writeReg s r v = { s with args := writeArg s.args v r } := by
  simp [writeReg, hr, hb]

/-- A register whose writes are ignored (R19, R20): neither an argument register nor CTRL, STATUS or CMD. -/
def Reg.ignoresWrites (r : Reg) : Bool :=
  !r.isArg && decide (r ≠ .ctrl) && decide (r ≠ .status) && decide (r ≠ .cmd)

theorem writeReg_of_ignoresWrites (s : State) {r : Reg} (hr : r.ignoresWrites = true) (v : Word) :
    writeReg s r v = s := by
  simp only [Reg.ignoresWrites, Bool.and_eq_true, Bool.not_eq_true', decide_eq_true_eq] at hr
  obtain ⟨⟨⟨harg, hctrl⟩, hstatus⟩, -⟩ := hr
  simp [writeReg, harg, hctrl, hstatus]

/-- A write to a register that ignores writes gets no error and changes nothing (R19, R20). -/
theorem serve_write_ignored (s : State) {o : BitVec 12} (ho : o.toNat % 4 = 0)
    (hr : (regAt s.cfg o.toNat).ignoresWrites = true) (v : Word) :
    serve s (.write (windowAddr s.cfg o) .word v) = .next { s with reply := .ok } := by
  have hcmd : regAt s.cfg o.toNat ≠ .cmd := by
    intro h; simp [h, Reg.ignoresWrites] at hr
  rw [serve_write_window s ho, if_neg hcmd, writeReg_of_ignoresWrites _ hr]

/-- A write at the offset of an argument register while IDLE changes that argument alone. -/
theorem serve_write_arg (s : State) {o : BitVec 12} (r : Reg) (ho : o.toNat % 4 = 0) (hreg : regAt s.cfg o.toNat = r)
    (hr : r.isArg = true) (hb : s.busy = false) (v : Word) :
    serve s (.write (windowAddr s.cfg o) .word v) = .next { s with args := writeArg s.args v r, reply := .ok } := by
  rw [serve_write_window s ho, hreg, if_neg (Reg.ne_of_isArg hr rfl)]
  exact congrArg Host.Outcome.next (writeReg_arg_idle (s := { s with reply := .ok }) hr hb v)

/-- A write of CMD while IDLE whose word decodes runs the command on the cleared record (R28). -/
theorem writeCmd_of_decode {s : State} {w : Word} {i : Instr} (hidle : s.run = none) (hw : decode w = some i) :
    writeCmd s w = exec i s.acceptCmd := by
  simp [writeCmd, State.busy, hidle, hw]

/-! ### The map of R23 -/

theorem stereoReg_ignoresWrites (cfg : Config) (c w : Nat) : (stereoReg cfg c w).ignoresWrites = true := by
  unfold stereoReg
  repeat' split
  all_goals rfl

theorem monoReg_ignoresWrites (cfg : Config) (c w : Nat) : (monoReg cfg c w).ignoresWrites = true := by
  unfold monoReg
  repeat' split
  all_goals rfl

/-- The map above the argument registers (R23): PEAK_*, the contexts, and what is unmapped between them. -/
theorem regAt_above_args (cfg : Config) {o : Nat} (h : 0x068 ≤ o) :
    regAt cfg o =
      if o < 0x080 then .unmapped
      else if o < 0x0A0 then .peakIn (Fin.ofNat 8 ((o - 0x080) / 4))
      else if o < 0x0A8 then .peakOut (Fin.ofNat 2 ((o - 0x0A0) / 4))
      else if o < 0x100 then .unmapped
      else if o < 0x500 then stereoReg cfg ((o - 0x100) / 0x40) ((o - 0x100) % 0x40 / 4)
      else if o < 0x700 then monoReg cfg ((o - 0x500) / 0x20) ((o - 0x500) % 0x20 / 4)
      else .unmapped := by
  rw [regAt, if_neg (by omega), if_neg (by omega), if_neg (by omega), if_neg (by omega), if_neg (by omega),
    if_neg (by omega), if_neg (by omega)]

/-- Above the argument registers no register can be written (R20, R23). -/
theorem regAt_ignoresWrites (cfg : Config) {o : Nat} (h : 0x068 ≤ o) : (regAt cfg o).ignoresWrites = true := by
  rw [regAt_above_args cfg h]
  split_ifs
  · rfl
  · rfl
  · rfl
  · rfl
  · exact stereoReg_ignoresWrites ..
  · exact monoReg_ignoresWrites ..
  · rfl

theorem stereoReg_unmapped {cfg : Config} {c w : Nat} (h : cfg.stereoCtx ≤ c ∨ 10 ≤ w) :
    stereoReg cfg c w = .unmapped := by
  unfold stereoReg
  split_ifs <;> first | rfl | omega

theorem monoReg_unmapped {cfg : Config} {c w : Nat} (h : cfg.monoCtx ≤ c ∨ 5 ≤ w) : monoReg cfg c w = .unmapped := by
  unfold monoReg
  split_ifs <;> first | rfl | omega

/-- The map has no register at an unmapped offset (R19, R23). -/
theorem regAt_unmapped {cfg : Config} {o : Nat} (h : isUnmappedOffset cfg o = true) : regAt cfg o = .unmapped := by
  simp only [isUnmappedOffset, Bool.and_eq_true, Bool.or_eq_true, decide_eq_true_eq] at h
  obtain ⟨halign, h⟩ := h
  by_cases hlow : o = 0x01C
  · subst hlow; rfl
  rw [regAt_above_args cfg (by omega)]
  split_ifs
  · rfl
  · omega
  · omega
  · rfl
  · exact stereoReg_unmapped (by omega)
  · exact monoReg_unmapped (by omega)
  · rfl

/-- Below the contexts the map is the same in every configuration (R23). -/
theorem regAt_below_contexts (cfg cfg' : Config) {o : Nat} (h : o < 0x100) : regAt cfg o = regAt cfg' o := by
  unfold regAt
  iterate 10 refine congrArg (ite _ _) ?_
  rw [if_pos h, if_pos h]

/-- The offset of an argument register (R23). -/
def Reg.argOffset : Reg → Nat
  | .count => 0x014
  | .inp k => 0x020 + 4 * k.val
  | .out k => 0x030 + 4 * k.val
  | .imtr => 0x038
  | .omtr => 0x03C
  | .gin j => 0x040 + 4 * j.val
  | .gout k => 0x060 + 4 * k.val
  | _ => 0

/-- At an argument offset stands an argument register, and that offset is its only one. -/
theorem regAt_argOffset (cfg : Config) {o : Nat} (h : isArgOffset o = true) :
    (regAt cfg o).isArg = true ∧ (regAt cfg o).argOffset = o := by
  have hlt : o < 0x068 := by
    simp only [isArgOffset, Bool.and_eq_true, Bool.or_eq_true, decide_eq_true_eq] at h
    omega
  have hall : ∀ o : Fin 0x068, isArgOffset o = true →
      (regAt Config.reference o).isArg = true ∧ (regAt Config.reference o).argOffset = o := by decide
  rw [regAt_below_contexts cfg Config.reference (by omega)]
  exact hall ⟨o, hlt⟩ h

theorem mod_four_of_isArgOffset {o : Nat} (h : isArgOffset o = true) : o % 4 = 0 := by
  simp only [isArgOffset, Bool.and_eq_true, decide_eq_true_eq] at h
  exact h.1

/-- A written argument register reads what was written. -/
theorem readReg_writeArg_same (s : State) (v : Word) {r : Reg} (hr : r.isArg = true) :
    readReg { s with args := writeArg s.args v r } r = v := by
  cases r with
  | count | imtr | omtr => rfl
  | inp _ | out _ | gin _ | gout _ => exact Vector.getElem_set_self ..
  | _ => cases hr

/-- A write of one argument register leaves every other register. -/
theorem readReg_writeArg_ne (s : State) (v : Word) {r r' : Reg} (h : r' ≠ r) :
    readReg { s with args := writeArg s.args v r } r' = readReg s r' := by
  cases r with
  | count | imtr | omtr =>
    cases r' <;> first | rfl | exact absurd rfl h
  | inp _ | out _ | gin _ | gout _ =>
    cases r' <;> try rfl
    exact Vector.getElem_set_ne (Fin.isLt _) (Fin.isLt _) fun e => h (congrArg _ (Fin.ext e.symm))
  | _ => rfl

/-! ### The offsets of the registers (R23) -/

theorem toNat_ofNat_offset {n : Nat} (h : n < 2 ^ 12) : (BitVec.ofNat 12 n).toNat = n := by
  rw [BitVec.toNat_ofNat, Nat.mod_eq_of_lt h]

theorem toNat_ofNat_mod_four {n : Nat} (h : n % 4 = 0) : (BitVec.ofNat 12 n).toNat % 4 = 0 := by
  rw [BitVec.toNat_ofNat]; omega

theorem regAt_inp (cfg : Config) (k : Fin 4) : regAt cfg (BitVec.ofNat 12 (0x020 + 4 * k.val)).toNat = .inp k := by
  fin_cases k <;> rfl

theorem regAt_out (cfg : Config) (k : Fin 2) : regAt cfg (BitVec.ofNat 12 (0x030 + 4 * k.val)).toNat = .out k := by
  fin_cases k <;> rfl

theorem regAt_gin (cfg : Config) (j : Fin 8) : regAt cfg (BitVec.ofNat 12 (0x040 + 4 * j.val)).toNat = .gin j := by
  fin_cases j <;> rfl

theorem regAt_gout (cfg : Config) (k : Fin 2) : regAt cfg (BitVec.ofNat 12 (0x060 + 4 * k.val)).toNat = .gout k := by
  fin_cases k <;> rfl

theorem regAt_peakIn (cfg : Config) (j : Fin 8) :
    regAt cfg (BitVec.ofNat 12 (0x080 + 4 * j.val)).toNat = .peakIn j := by
  fin_cases j <;> rfl

theorem regAt_peakOut (cfg : Config) (k : Fin 2) :
    regAt cfg (BitVec.ofNat 12 (0x0A0 + 4 * k.val)).toNat = .peakOut k := by
  fin_cases k <;> rfl

/-- Word w of the 64 bytes of SS[c] (R23). -/
theorem regAt_stereo (cfg : Config) (c : BitVec 4) {w : Nat} (hw : w < 16) :
    regAt cfg (BitVec.ofNat 12 (0x100 + 0x40 * c.toNat + 4 * w)).toNat = stereoReg cfg c.toNat w := by
  have hc := c.isLt
  rw [toNat_ofNat_offset (by omega), regAt_above_args cfg (by omega), if_neg (by omega), if_neg (by omega),
    if_neg (by omega), if_neg (by omega), if_pos (by omega)]
  congr 1 <;> omega

/-- Word w of the 32 bytes of MS[c] (R23). -/
theorem regAt_mono (cfg : Config) (c : BitVec 4) {w : Nat} (hw : w < 8) :
    regAt cfg (BitVec.ofNat 12 (0x500 + 0x20 * c.toNat + 4 * w)).toNat = monoReg cfg c.toNat w := by
  have hc := c.isLt
  rw [toNat_ofNat_offset (by omega), regAt_above_args cfg (by omega), if_neg (by omega), if_neg (by omega),
    if_neg (by omega), if_neg (by omega), if_neg (by omega), if_pos (by omega)]
  congr 1 <;> omega

theorem regAt_ssIn {cfg : Config} {c : BitVec 4} (hc : c.toNat < cfg.stereoCtx) (j : Fin 8) :
    regAt cfg (BitVec.ofNat 12 (0x100 + 0x40 * c.toNat + 4 * j.val)).toNat = .ssIn c j := by
  rw [regAt_stereo cfg c (by omega)]
  simp [stereoReg, hc]

theorem regAt_ssOut {cfg : Config} {c : BitVec 4} (hc : c.toNat < cfg.stereoCtx) (k : Fin 2) :
    regAt cfg (BitVec.ofNat 12 (0x120 + 0x40 * c.toNat + 4 * k.val)).toNat = .ssOut c k := by
  have hoff : 0x120 + 0x40 * c.toNat + 4 * k.val = 0x100 + 0x40 * c.toNat + 4 * (8 + k.val) := by omega
  have hk : 8 + k.val < 10 := by omega
  rw [hoff, regAt_stereo cfg c (by omega)]
  simp [stereoReg, hc, hk]

theorem regAt_msIn {cfg : Config} {c : BitVec 4} (hc : c.toNat < cfg.monoCtx) (k : Fin 4) :
    regAt cfg (BitVec.ofNat 12 (0x500 + 0x20 * c.toNat + 4 * k.val)).toNat = .msIn c k := by
  rw [regAt_mono cfg c (by omega)]
  simp [monoReg, hc]

theorem regAt_msOut {cfg : Config} {c : BitVec 4} (hc : c.toNat < cfg.monoCtx) :
    regAt cfg (BitVec.ofNat 12 (0x510 + 0x20 * c.toNat)).toNat = .msOut c := by
  have hoff : 0x510 + 0x20 * c.toNat = 0x500 + 0x20 * c.toNat + 4 * 4 := by omega
  rw [hoff, regAt_mono cfg c (by omega)]
  simp [monoReg, hc]

/-! ### CAPS, CTRL and STATUS as numbers -/

/-- CAPS as a number (R25). -/
theorem capsWord_eq {cfg : Config} (h : cfg.valid = true) :
    capsWord cfg = BitVec.ofNat 32 (cfg.stereoCtx + 2 ^ 8 * cfg.monoCtx + if cfg.layoutOps then 2 ^ 16 else 0) := by
  simp only [Config.valid, Bool.and_eq_true, decide_eq_true_eq] at h
  obtain ⟨⟨⟨-, hs⟩, -⟩, hm⟩ := h
  apply BitVec.eq_of_toNat_eq
  simp only [capsWord, toNat_append_eq_add, BitVec.toNat_ofBool, BitVec.toNat_ofNat]
  cases cfg.layoutOps <;> simp <;> omega

/-- CTRL as a number (R26). -/
theorem ctrlWord_eq (s : State) : s.ctrlWord = if s.irqEn then 1 else 0 := by
  unfold State.ctrlWord
  cases s.irqEn <;> rfl

/-- STATUS as a number, each field in its bits (R27). -/
theorem statusWord_eq (s : State) :
    s.statusWord = BitVec.ofNat 32 ((if s.busy then 1 else 0) + (if s.done then 2 else 0) + (if s.err then 4 else 0) +
      (if s.wign then 8 else 0) + 16 * s.errCode.bits.toNat) := by
  have hcode := s.errCode.bits.isLt
  apply BitVec.eq_of_toNat_eq
  simp only [State.statusWord, toNat_append_eq_add, BitVec.toNat_ofBool, BitVec.toNat_ofNat]
  cases s.busy <;> cases s.done <;> cases s.err <;> cases s.wign <;> simp <;> omega


end Sys2Proof.Machine

namespace Sys2Proof.Proofs

open Sys2Proof.Machine

/-- Settles O8: every such access answers `State.badAccess`. -/
theorem otherAccessesGetAnErrorResponse : Obligations.OtherAccessesGetAnErrorResponse := by
  intro s o size v h
  exact ⟨_, serve_window_bad s h v⟩

/-- Settles O9: an unmapped offset reaches `Reg.unmapped`, which reads 0 and ignores writes. -/
theorem unmappedOffsetsReadZero : Obligations.UnmappedOffsetsReadZero := by
  intro s o v h
  have ho : o.toNat % 4 = 0 := by
    simp only [isUnmappedOffset, Bool.and_eq_true, decide_eq_true_eq] at h
    exact h.1
  have hreg : regAt s.cfg o.toNat = .unmapped := regAt_unmapped h
  constructor
  · exact serve_read_reg s .unmapped ho hreg nofun rfl
  · exact serve_write_ignored s ho (by rw [hreg]; rfl) v

/-- Settles O11: each of these offsets reaches a register whose writes are ignored. -/
theorem readOnlyRegistersIgnoreWrites : Obligations.ReadOnlyRegistersIgnoreWrites := by
  intro s o v ho hro
  refine serve_write_ignored s ho ?_ v
  rcases hro with rfl | rfl | rfl | ⟨hlo, -⟩
  · rfl
  · rfl
  · rfl
  · exact regAt_ignoresWrites s.cfg (by omega)

/-- Settles O13: STATUS takes its own write, and `writeStatus_eq` says what that clears. -/
theorem statusWritesClearByOne : Obligations.StatusWritesClearByOne := by
  intro s v
  have hw : serve s (.write (windowAddr s.cfg 0x00C) .word v) = .next (({ s with reply := .ok }).writeStatus v) :=
    serve_write_window s rfl v
  rw [hw, writeStatus_eq]

/-- Settles O7: CTRL and STATUS by their own writes, CMD and the arguments by the busy lock; a read while BUSY acquires
nothing. -/
theorem busyLockIgnoresWrites : Obligations.BusyLockIgnoresWrites := by
  refine ⟨fun s v hv => ?_, fun s o v hb => ⟨?_, fun hv => ?_, fun ho => ?_⟩⟩
  · have hw : serve s (.write (windowAddr s.cfg 0x008) .word v) = .next (writeCtrl { s with reply := .ok } v) :=
      serve_write_window s rfl v
    rw [hw, writeCtrl, hv]
    rfl
  · rintro (rfl | harg)
    · have hw : serve s (.write (windowAddr s.cfg 0x010) .word v) = writeCmd { s with reply := .ok } v :=
        serve_write_window s rfl v
      rw [hw]
      exact if_pos hb
    · obtain ⟨hreg, -⟩ := regAt_argOffset s.cfg harg
      rw [serve_write_window s (mod_four_of_isArgOffset harg), if_neg (Reg.ne_of_isArg hreg rfl)]
      exact congrArg Host.Outcome.next (writeReg_arg_busy (s := { s with reply := .ok }) hreg hb v)
  · rw [statusWritesClearByOne s v, hv]
    cases v.getLsbD 1 <;> cases v.getLsbD 3 <;> simp
  · rw [serve_read_window s ho, hb]
    simp [State.acquireIf]

/-- Settles O10: an argument offset reaches one argument register, which is at no other offset. -/
theorem argumentRegistersHoldWhatIsWritten : Obligations.ArgumentRegistersHoldWhatIsWritten := by
  intro s v hb
  refine ⟨⟨serve_write_arg s .count rfl rfl rfl hb v,
    fun k => serve_write_arg s (.inp k) (toNat_ofNat_mod_four (by omega)) (regAt_inp s.cfg k) rfl hb v,
    fun k => serve_write_arg s (.out k) (toNat_ofNat_mod_four (by omega)) (regAt_out s.cfg k) rfl hb v,
    serve_write_arg s .imtr rfl rfl rfl hb v,
    serve_write_arg s .omtr rfl rfl rfl hb v,
    fun j => serve_write_arg s (.gin j) (toNat_ofNat_mod_four (by omega)) (regAt_gin s.cfg j) rfl hb v,
    fun k => serve_write_arg s (.gout k) (toNat_ofNat_mod_four (by omega)) (regAt_gout s.cfg k) rfl hb v⟩,
    fun o ho => ?_⟩
  obtain ⟨hreg, hoff⟩ := regAt_argOffset s.cfg ho
  refine ⟨_, serve_write_arg s _ (mod_four_of_isArgOffset ho) rfl hreg hb v, fun o' ho' => ?_⟩
  obtain ⟨hreg', hoff'⟩ := regAt_argOffset s.cfg ho'
  refine serve_read_reg { s with args := writeArg s.args v (regAt s.cfg o.toNat) } _ (mod_four_of_isArgOffset ho') rfl
    (Reg.ne_of_isArg hreg' rfl) ?_
  by_cases h : o' = o
  · subst h
    rw [if_pos rfl]
    exact readReg_writeArg_same s v hreg
  · have hne : regAt s.cfg o'.toNat ≠ regAt s.cfg o.toNat := fun e =>
      h (BitVec.eq_of_toNat_eq (by rw [← hoff, ← hoff', e]))
    rw [if_neg h]
    exact readReg_writeArg_ne s v hne

/-- Settles O12: each offset reaches its register, and CAPS, CTRL and STATUS are their fields as numbers. -/
theorem resultRegistersReadAtTheirOffsets : Obligations.ResultRegistersReadAtTheirOffsets := by
  intro s hcfg
  refine ⟨serve_read_reg s .id rfl rfl nofun rfl,
    serve_read_reg s .caps rfl rfl nofun (capsWord_eq hcfg),
    serve_read_reg s .ctrl rfl rfl nofun (ctrlWord_eq s),
    ?status,
    serve_read_reg s .cmd rfl rfl nofun rfl,
    serve_read_reg s .errAddr rfl rfl nofun rfl,
    fun j => serve_read_reg s (.peakIn j) (toNat_ofNat_mod_four (by omega)) (regAt_peakIn s.cfg j) nofun rfl,
    fun k => serve_read_reg s (.peakOut k) (toNat_ofNat_mod_four (by omega)) (regAt_peakOut s.cfg k) nofun rfl,
    fun c hc =>
      ⟨fun j => serve_read_reg s (.ssIn c j) (toNat_ofNat_mod_four (by omega)) (regAt_ssIn hc j) nofun rfl,
        fun k => serve_read_reg s (.ssOut c k) (toNat_ofNat_mod_four (by omega)) (regAt_ssOut hc k) nofun rfl⟩,
    fun c hc =>
      ⟨fun k => serve_read_reg s (.msIn c k) (toNat_ofNat_mod_four (by omega)) (regAt_msIn hc k) nofun rfl,
        serve_read_reg s (.msOut c) (toNat_ofNat_mod_four (by omega)) (regAt_msOut hc) nofun rfl⟩⟩
  refine ⟨if !s.busy && s.done then [] else s.unseen, ?_⟩
  rw [serve_read_status, statusWord_eq]
  cases s.errCode <;> rfl

/-- Settles O4: the step serves the write, which reaches CMD. -/
theorem cmdWriteRunsDecodedCommand : Obligations.CmdWriteRunsDecodedCommand := by
  intro s w i es hevents hidle hw
  have hserve : step s = writeCmd { s with events := es, reply := .ok } w := by
    rw [step, hevents]
    exact serve_write_window { s with events := es } (o := 0x010) rfl w
  exact hserve.trans (writeCmd_of_decode (s := { s with events := es, reply := .ok }) hidle hw)

/-- Settles O15: reset fills each register file with one value, so that each of its registers holds it. -/
theorem resetTableHolds : Obligations.ResetTableHolds := by
  unfold Obligations.ResetTableHolds
  decide

end Sys2Proof.Proofs
end

section
/-! SUPPORT. What one step can do, said once: a chain of elementary moves. An invariant is then kept by every step if
every move keeps it. -/

namespace Sys2Proof.Machine

/-- The elementary moves of the machine, each with what the machine has checked before it makes the move. -/
inductive Move : State → State → Prop where
  /-- The host's side and the model's own records: nothing of the engine, the contexts or memory. -/
  | quiet (s : State) (irqEn wign : Bool) (unseen : List Span) (events : List Event) (reply : Reply) (draws : Nat)
      (breaches : List Breach) :
      Move s { s with
        irqEn := irqEn, wign := wign, unseen := unseen, events := events, reply := reply, draws := draws,
        breaches := breaches }
  /-- A host access marks the running command (R60, R148). -/
  | touch (s : State) (dirty : Run → Bool) :
      Move s { s with run := s.run.map fun r => { r with dirty := dirty r } }
  | status (s : State) (v : Word) : Move s (s.writeStatus v)
  /-- Argument registers are written while IDLE only (R21). -/
  | args (s : State) (a : Args) (hidle : s.run = none) : Move s { s with args := a }
  | store (s : State) (addr : Word) (v : Byte) : Move s { s with mem := s.mem.writeByte addr.toNat v }
  | reset (s : State) : Move s (resetBlock s)
  | reject (s : State) (code : ErrCode) (addr : Word) (hidle : s.run = none) (hcode : code ≠ .none) :
      Move s (s.acceptCmd.reject code addr)
  | initStereo (s : State) (ctx : BitVec 4) (hidle : s.run = none) :
      Move s (s.acceptCmd.setStereo ctx StereoCtx.init).endCommand
  | initMono (s : State) (ctx : BitVec 4) (hidle : s.run = none) :
      Move s (s.acceptCmd.setMono ctx MonoCtx.init).endCommand
  | start (s : State) (i : Instr) (hidle : s.run = none) (hruns : i.runs = true) (hacc : i.accepted s = true) :
      Move s (s.acceptCmd.startRun i (regionsOf i s.args))
  | abort (s : State) (r : Run) (addr : Word) (hrun : s.run = some r) : Move s (abortRun addr r s)
  | frame (s : State) (r : Run) (hrun : s.run = some r) (hlt : r.frame < s.args.n) : Move s (frameTurn r s)
  | complete (s : State) (r : Run) (hrun : s.run = some r) : Move s (completeRun r s)

/-- A chain of moves. -/
abbrev Moves : State → State → Prop := Relation.ReflTransGen Move

/-- An accepted command's acceptance: a context set to 1.0, or the start of a run. -/
theorem acceptance_cases (i : Instr) (s : State) :
    (∃ ctx, acceptance i s = (s.setStereo ctx StereoCtx.init).endCommand) ∨
    (∃ ctx, acceptance i s = (s.setMono ctx MonoCtx.init).endCommand) ∨
    (i.runs = true ∧ acceptance i s = s.startRun i (regionsOf i s.args)) := by
  cases i with
  | sinit ctx => exact .inl ⟨ctx, rfl⟩
  | minit ctx => exact .inr (.inl ⟨ctx, rfl⟩)
  | _ => exact .inr (.inr ⟨rfl, rfl⟩)

theorem exec_moves {i : Instr} {s t : State} (hidle : s.run = none) (h : exec i s.acceptCmd = .next t) : Moves s t := by
  cases hacc : i.accepted s.acceptCmd with
  | false =>
    obtain ⟨code, addr, hcode, -, hexec⟩ := exec_of_not_accepted hacc
    cases hexec.symm.trans h
    exact .single (.reject s code addr hidle hcode)
  | true =>
    cases (exec_of_accepted hacc).symm.trans h
    rcases acceptance_cases i s.acceptCmd with ⟨ctx, hctx⟩ | ⟨ctx, hctx⟩ | ⟨hruns, hstart⟩
    · rw [hctx]; exact .single (.initStereo s ctx hidle)
    · rw [hctx]; exact .single (.initMono s ctx hidle)
    · rw [hstart]; exact .single (.start s i hidle hruns hacc)

theorem writeCmd_moves {s t : State} {w : Word} (h : writeCmd s w = .next t) : Moves s t := by
  unfold writeCmd at h
  split at h
  · cases h
    exact .single (.quiet s ..)
  · next hbusy =>
    have hidle : s.run = none := by simpa [State.busy] using hbusy
    split at h
    · exact exec_moves hidle h
    · cases h
      exact .single (.reject s .badOp 0 hidle (by decide))

theorem writeReg_moves (s : State) (r : Reg) (v : Word) : Moves s (writeReg s r v) := by
  unfold writeReg
  split
  · split
    · exact .single (.quiet s ..)
    · next hbusy => exact .single (.args s _ (by simpa [State.busy] using hbusy))
  · split
    · unfold writeCtrl
      split
      · exact .single (.reset s)
      · exact .single (.quiet s ..)
    · split
      · exact .single (.status s v)
      · exact .refl

theorem portRead_moves (s : State) (addr : Word) (size : AccessSize) : Moves s (portRead s addr size) := by
  unfold portRead
  split <;> exact .single (.quiet s ..)

theorem portWrite_moves {s t : State} {addr : Word} {size : AccessSize} {v : Word}
    (h : portWrite s addr size v = .next t) : Moves s t := by
  have hreply : Moves s { s with reply := .ok } := .single (.quiet s ..)
  unfold portWrite at h
  split at h
  · cases h
    exact .single (.quiet s ..)
  · cases h
    exact .single (.quiet s ..)
  · split at h
    · exact hreply.trans (writeCmd_moves h)
    · cases h
      exact hreply.trans (writeReg_moves _ _ v)

theorem touchIf_moves (s : State) (cond : Bool) : Moves s (s.touchIf cond) :=
  (Relation.ReflTransGen.single (.touch s fun r => r.dirty || cond)).tail (.quiet ..)

theorem hostLoad_moves (s : State) (addr : Word) : Moves s (hostLoad s addr) := by
  dsimp only [hostLoad]
  split <;> exact (touchIf_moves s _).tail (.quiet (s.touchIf _) ..)

theorem hostStore_moves (s : State) (addr : Word) (v : Byte) : Moves s (hostStore s addr v) := by
  dsimp only [hostStore]
  split <;> exact ((touchIf_moves s _).tail (.store (s.touchIf _) addr _)).tail (.quiet ..)

theorem engineTurn_moves (s : State) : Moves s (engineTurn s) := by
  rcases engineTurn_cases s with ⟨h, -⟩ | ⟨r, addr, hrun, -, h⟩ | ⟨r, hrun, -, hlt, h⟩ | ⟨r, hrun, -, -, h⟩
  · rw [h]
  · rw [h]; exact .single (.abort s r addr hrun)
  · rw [h]; exact .single (.frame s r hrun hlt)
  · rw [h]; exact .single (.complete s r hrun)

theorem serve_moves {s t : State} {e : Event} (h : serve s e = .next t) : Moves s t := by
  cases e with
  | read addr size => cases h; exact portRead_moves s addr size
  | write addr size v => exact portWrite_moves h
  | load addr => cases h; exact hostLoad_moves s addr
  | store addr v => cases h; exact hostStore_moves s addr v
  | reset => cases h; exact .single (.reset s)
  | engine => cases h; exact engineTurn_moves s

theorem enginePending_moves {s t : State} (h : enginePending s = .next t) : Moves s t := by
  unfold enginePending at h
  split at h
  · cases h
    exact .refl
  · split at h
    · cases h
    · cases h
    · cases h; exact engineTurn_moves s
    · cases h; exact engineTurn_moves s

/-- Every step is a chain of moves. -/
theorem step_moves {s t : State} (h : step s = .next t) : Moves s t := by
  unfold step at h
  split at h
  · exact enginePending_moves h
  · exact (Relation.ReflTransGen.single (.quiet s ..)).trans (serve_moves h)

/-- A property that every move keeps, given an invariant `A` of the moves, is kept by every step. -/
theorem step_keeps {A P : State → Prop} (hA : ∀ s t, Move s t → A s → A t)
    (hP : ∀ s t, Move s t → A s → P s → P t) {s t : State} (h : step s = .next t) (ha : A s) (hp : P s) : P t := by
  have hmoves := step_moves h
  clear h
  have both : A t ∧ P t := by
    induction hmoves with
    | refl => exact ⟨ha, hp⟩
    | tail _ hmove ih => exact ⟨hA _ _ hmove ih.1, hP _ _ hmove ih.1 ih.2⟩
  exact both.2

end Sys2Proof.Machine
end

section
/-! SUPPORT. Which bytes a turn of the engine or a reset writes: only bytes of the used "out" regions (R49, R50), said
once as a chain of byte writes, so that what every such write keeps is kept. -/

namespace Sys2Proof.Machine

/-- Memory after byte writes at addresses in `A`. -/
inductive Memory.WritesIn (A : Nat → Prop) (m : Memory) : Memory → Prop where
  | refl : WritesIn A m m
  | byte {m' : Memory} {a : Nat} (v : Byte) (h : WritesIn A m m') (ha : A a) : WritesIn A m (m'.writeByte a v)

namespace Memory.WritesIn

variable {A : Nat → Prop} {m m' m'' : Memory}

theorem trans (h : WritesIn A m m') (h' : WritesIn A m' m'') : WritesIn A m m'' := by
  induction h' with
  | refl => exact h
  | byte v _ ha ih => exact .byte v ih ha

theorem mono {B : Nat → Prop} (h : WritesIn A m m') (hAB : ∀ a, A a → B a) : WritesIn B m m' := by
  induction h with
  | refl => exact .refl
  | byte v _ ha ih => exact .byte v ih (hAB _ ha)

theorem half {a : Nat} (v : Half) (h : WritesIn A m m') (ha : ∀ b, a ≤ b → b < a + 2 → A b) :
    WritesIn A m (m'.writeHalf a v) :=
  .byte _ (.byte _ h (ha a (by omega) (by omega))) (ha (a + 1) (by omega) (by omega))

theorem word {a : Nat} (v : Word) (h : WritesIn A m m') (ha : ∀ b, a ≤ b → b < a + 4 → A b) :
    WritesIn A m (m'.writeWord a v) :=
  .byte _ (.byte _ (.byte _ (.byte _ h (ha a (by omega) (by omega))) (ha (a + 1) (by omega) (by omega)))
    (ha (a + 2) (by omega) (by omega))) (ha (a + 3) (by omega) (by omega))

theorem scramble (m : Memory) (base draw : Nat) {size : Nat} (ha : ∀ b, base ≤ b → b < base + size → A b) :
    WritesIn A m (m.scramble base draw size) := by
  induction size with
  | zero => exact .refl
  | succ k ih => exact .byte _ (ih fun b hlo hhi => ha b hlo (by omega)) (ha (base + k) (by omega) (by omega))

/-- Byte writes keep the canonical form. -/
theorem wf (h : WritesIn A m m') (hm : m.wf = true) : m'.wf = true := by
  induction h with
  | refl => exact hm
  | byte v _ _ ih => exact Memory.wf_writeByte _ v ih

/-- Byte writes at 32-bit addresses keep memory within the address space. -/
theorem inSpace (h : WritesIn (· < 2 ^ 32) m m') (hm : m.inSpace = true) : m'.inSpace = true := by
  induction h with
  | refl => exact hm
  | byte v _ ha ih => exact Memory.inSpace_writeByte v ha ih

/-- Byte writes leave every other byte. -/
theorem readByte (h : WritesIn A m m') {a : Nat} (ha : ¬ A a) : m'.readByte a = m.readByte a := by
  induction h with
  | refl => rfl
  | byte v _ hb ih => rw [Memory.readByte_writeByte_ne _ v (by rintro rfl; exact ha hb), ih]

end Memory.WritesIn

/-- The bytes of the used "out" regions of a command. -/
def outByte (rs : List Region) (a : Nat) : Prop := inSpans (outSpans rs) a = true

theorem Span.has_iff (sp : Span) (a : Nat) : sp.has a = true ↔ sp.base ≤ a ∧ a < sp.base + sp.size := by
  simp [Span.has]

theorem outByte_iff (rs : List Region) (a : Nat) :
    outByte rs a ↔ ∃ r ∈ rs, r.out = true ∧ r.used = true ∧ r.ptr.toNat ≤ a ∧ a < r.ptr.toNat + r.bytes := by
  simp [outByte, inSpans, outSpans, Span.has_iff, Region.span, and_assoc]

/-- A required pointer of legal regions is not null. -/
theorem used_of_required {rs : List Region} (h : regionsLegal rs = true) {r : Region} (hr : r ∈ rs)
    (hreq : r.required = true) : r.used = true := by
  have hnull := ((regionsLegal_iff rs).1 h r hr).1
  simpa [Region.isNull, hreq] using hnull

/-- The bytes of legal "out" regions have 32-bit addresses (R49). -/
theorem lt_of_outByte {rs : List Region} (h : regionsLegal rs = true) {a : Nat} (ha : outByte rs a) : a < 2 ^ 32 := by
  obtain ⟨r, hr, -, hused, -, hlt⟩ := (outByte_iff rs a).1 ha
  have hrange := ((regionsLegal_iff rs).1 h r hr).2.2
  simp only [Region.outOfRange, hused, Bool.true_and, decide_eq_false_iff_not] at hrange
  omega

/-- The bytes of an element of a used "out" region are out bytes. -/
theorem outByte_elem {rs : List Region} {r : Region} (hr : r ∈ rs) (hout : r.out = true) (hused : r.used = true)
    {j : Nat} (hj : j < r.count) (b : Nat) (hlo : elemAddr r.ptr r.elem j ≤ b)
    (hhi : b < elemAddr r.ptr r.elem j + r.elem) : outByte rs b := by
  refine (outByte_iff rs b).2 ⟨r, hr, hout, hused, ?_, ?_⟩
  · unfold elemAddr at hlo
    omega
  · have hle : r.elem * (j + 1) ≤ r.elem * r.count := Nat.mul_le_mul_left _ hj
    unfold elemAddr at hhi
    unfold Region.bytes
    rw [Nat.mul_add] at hle
    omega

section Destinations

variable {rs : List Region} {m m' : Memory} {a : Args} {k : Fin 2} {per mg j addr : Nat} {req : Bool}

/-- A word of element j of OUTk written. -/
theorem Memory.WritesIn.dstWord (h : m.WritesIn (outByte rs) m') (v : Word) (hr : dstRegion a k 4 per req mg ∈ rs)
    (hused : a.out[k] ≠ 0) (hj : j < per * a.n) (haddr : addr = elemAddr a.out[k] 4 j) :
    m.WritesIn (outByte rs) (m'.writeWord addr v) := by
  subst haddr
  exact h.word v (outByte_elem hr rfl (by simpa [Region.used, dstRegion] using hused) hj)

/-- A half of element j of OUTk written. -/
theorem Memory.WritesIn.dstHalf (h : m.WritesIn (outByte rs) m') (v : Half) (hr : dstRegion a k 2 per req mg ∈ rs)
    (hused : a.out[k] ≠ 0) (hj : j < per * a.n) (haddr : addr = elemAddr a.out[k] 2 j) :
    m.WritesIn (outByte rs) (m'.writeHalf addr v) := by
  subst haddr
  exact h.half v (outByte_elem hr rfl (by simpa [Region.used, dstRegion] using hused) hj)

/-- OUTk is not null when legal regions require it. -/
theorem out_ne_zero {elem : Nat} (h : regionsLegal rs = true) (hr : dstRegion a k elem per true mg ∈ rs) :
    a.out[k] ≠ 0 := by
  simpa [Region.used, dstRegion] using used_of_required h hr rfl

/-- The output word of an SMIX frame on either side, split or interleaved (R100). -/
theorem Memory.WritesIn.smixWord (h : m.WritesIn (outByte (smixRegions a)) m')
    (hlegal : regionsLegal (smixRegions a) = true) (side : Fin 2) {i : Nat} (hi : i < a.n) (v : Word) :
    m.WritesIn (outByte (smixRegions a)) (m'.writeWord (smixOutAddr a i side) v) := by
  have hdst0 : dstRegion a 0 4 (if a.split then 1 else 2) true 0 ∈ smixRegions a := by simp [smixRegions]
  have hdst1 : dstRegion a 1 4 1 false 0 ∈ smixRegions a := by simp [smixRegions]
  have hused0 := out_ne_zero hlegal hdst0
  unfold smixOutAddr
  cases hsplit : a.split with
  | true =>
    rw [hsplit] at hdst0
    have hused1 : a.out[(1 : Fin 2)] ≠ 0 := by simpa [Args.split] using hsplit
    rw [if_pos rfl]
    match side with
    | 0 => exact h.dstWord v hdst0 hused0 (by simpa using hi) rfl
    | 1 => exact h.dstWord v hdst1 hused1 (by simpa using hi) rfl
  | false =>
    rw [hsplit] at hdst0
    rw [if_neg nofun]
    exact h.dstWord v hdst0 hused0 (by simp; omega) rfl

end Destinations

/-- A frame writes only bytes of its command's "out" regions. -/
theorem frameTurn_writesIn {r : Run} {s : State} (hlegal : regionsLegal (s.runRegions r) = true)
    (hlt : r.frame < s.args.n) : s.mem.WritesIn (outByte (s.runRegions r)) (frameTurn r s).mem := by
  unfold State.runRegions at *
  unfold frameTurn
  generalize r.instr = i at *
  cases i with
  | sinit ctx | minit ctx => exact .refl
  | smix ctx fx => exact (Memory.WritesIn.refl.smixWord hlegal 0 hlt _).smixWord hlegal 1 hlt _
  | mmix ctx fx =>
    have hdst : dstRegion s.args 0 4 1 true 0 ∈ mmixRegions s.args := by simp [mmixRegions]
    exact Memory.WritesIn.refl.dstWord _ hdst (out_ne_zero hlegal hdst) (by omega) rfl
  | fxenc | fxdec =>
    have hdst : dstRegion s.args 0 4 1 true 0 ∈ fxencRegions s.args := by simp [fxencRegions]
    exact Memory.WritesIn.refl.dstWord _ hdst (out_ne_zero hlegal hdst) (by omega) rfl
  | f2s16 =>
    have hdst : dstRegion s.args 0 2 2 true 16 ∈ f2s16Regions s.args := by simp [f2s16Regions]
    have hused := out_ne_zero hlegal hdst
    exact (Memory.WritesIn.refl.dstHalf _ hdst hused (by omega) rfl).dstHalf _ hdst hused (by omega) rfl
  | p2s16 =>
    have hdst : dstRegion s.args 0 2 2 true 16 ∈ p2s16Regions s.args := by simp [p2s16Regions]
    have hused := out_ne_zero hlegal hdst
    exact (Memory.WritesIn.refl.dstHalf _ hdst hused (by omega) rfl).dstHalf _ hdst hused (by omega) rfl
  | s162f =>
    have hdst : dstRegion s.args 0 4 2 true 16 ∈ s162fRegions s.args := by simp [s162fRegions]
    have hused := out_ne_zero hlegal hdst
    exact (Memory.WritesIn.refl.dstWord _ hdst hused (by omega) rfl).dstWord _ hdst hused (by omega) rfl
  | ilv =>
    have hdst : dstRegion s.args 0 4 2 true 0 ∈ ilvRegions s.args := by simp [ilvRegions]
    have hused := out_ne_zero hlegal hdst
    exact (Memory.WritesIn.refl.dstWord _ hdst hused (by omega) rfl).dstWord _ hdst hused (by omega) rfl
  | dilv =>
    have hleft : dstRegion s.args 0 4 1 true 0 ∈ dilvRegions s.args := by simp [dilvRegions]
    have hright : dstRegion s.args 1 4 1 true 0 ∈ dilvRegions s.args := by simp [dilvRegions]
    exact (Memory.WritesIn.refl.dstWord _ hleft (out_ne_zero hlegal hleft) (by omega) rfl).dstWord _ hright
      (out_ne_zero hlegal hright) (by omega) rfl

/-- A meter array is written inside its region (R101). -/
theorem Memory.WritesIn.meters {rs : List Region} {m m' : Memory} {reg ptr : Word} {values : List Word}
    (h : m.WritesIn (outByte rs) m') (hr : meterRegion reg ptr values.length ∈ rs) :
    m.WritesIn (outByte rs) (writeMeters m' ptr values) := by
  unfold writeMeters
  split
  · exact h
  · next hptr =>
    have hused : (meterRegion reg ptr values.length).used = true := by simpa [Region.used, meterRegion] using hptr
    have hfold : ∀ (vs : List (Word × Nat)) (m' : Memory), (∀ v ∈ vs, v.2 < values.length) →
        m.WritesIn (outByte rs) m' →
        m.WritesIn (outByte rs) (vs.foldl (fun m v => m.writeWord (elemAddr ptr 4 v.2) (b32 v.1)) m') := by
      intro vs
      induction vs with
      | nil => exact fun _ _ h => h
      | cons v vs ih =>
        intro m' hvs h
        exact ih _ (fun v' hv' => hvs v' (.tail _ hv')) (h.word _ (outByte_elem hr rfl hused (hvs v (.head _))))
    exact hfold _ _ (fun v hv => List.snd_lt_of_mem_zipIdx hv) h

/-- Making "out" regions free writes only their bytes. -/
theorem freeOut_writesIn (s : State) (rs : List Region) : s.mem.WritesIn (outByte rs) (s.freeOut rs).mem := by
  have hfold : ∀ (sps : List Span) (t : State), (∀ sp ∈ sps, sp ∈ outSpans rs) →
      t.mem.WritesIn (outByte rs) (sps.foldl State.freeSpan t).mem := by
    intro sps
    induction sps with
    | nil => exact fun _ _ => .refl
    | cons sp sps ih =>
      intro t hsps
      have hspan : t.mem.WritesIn (outByte rs) (t.freeSpan sp).mem :=
        .scramble t.mem sp.base t.draws fun b hlo hhi =>
          List.any_eq_true.2 ⟨sp, hsps sp (.head _), (Span.has_iff sp b).2 ⟨hlo, hhi⟩⟩
      exact hspan.trans (ih (t.freeSpan sp) fun x hx => hsps x (.tail _ hx))
  exact hfold _ s fun _ h => h

theorem spoilIf_writesIn (s : State) (dirty : Bool) (rs : List Region) :
    s.mem.WritesIn (outByte rs) (s.spoilIf dirty rs).mem := by
  unfold State.spoilIf
  split
  · exact freeOut_writesIn s rs
  · exact .refl

/-- The completion writes only bytes of its command's "out" regions. -/
theorem completeRun_writesIn (r : Run) (s : State) :
    s.mem.WritesIn (outByte (s.runRegions r)) (completeRun r s).mem := by
  have hwrites : s.mem.WritesIn (outByte (s.runRegions r)) (completionWrites r s).mem := by
    unfold State.runRegions completionWrites
    cases r.instr with
    | smix ctx fx =>
      have himtr : meterRegion 0x038 s.args.imtr r.maxIn.toList.length ∈ smixRegions s.args := by simp [smixRegions]
      have homtr : meterRegion 0x03C s.args.omtr r.maxOut.toList.length ∈ smixRegions s.args := by simp [smixRegions]
      exact (Memory.WritesIn.refl.meters himtr).meters homtr
    | _ => exact .refl
  exact hwrites.trans (spoilIf_writesIn _ r.dirty (s.runRegions r))

/-- An abort writes only bytes of its command's "out" regions (R129). -/
theorem abortRun_writesIn (addr : Word) (r : Run) (s : State) :
    s.mem.WritesIn (outByte (s.runRegions r)) (abortRun addr r s).mem := by
  have hmem : (abortRun addr r s).mem = (s.freeOut (s.runRegions r)).mem := by
    unfold abortRun
    cases r.dirty <;> rfl
  rw [hmem]
  exact freeOut_writesIn s _

/-- A reset writes only bytes of the "out" regions of the command it abandons (R140). -/
theorem resetBlock_writesIn (s : State) : s.mem.WritesIn (outByte s.abandoned) (resetBlock s).mem :=
  freeOut_writesIn s s.abandoned

end Sys2Proof.Machine
end

section
/-! SUPPORT. The parts of the machine's invariant, each kept by every move, and the statements about the invariant, the
smoothing gains and the engine's turns. -/

namespace Sys2Proof.Machine

/-! ### What each turn of a command changes -/

/-- The start of a run changes the engine, and the model's own record of breaches. -/
theorem startRun_eq (s : State) (i : Instr) (rs : List Region) :
    ∃ breaches, s.startRun i rs = { s with
      breaches := breaches
      run := some
        { instr := i, frame := 0, acc := Vector.replicate 2 0, maxIn := Vector.replicate 8 0,
          maxOut := Vector.replicate 2 0, fate := fateOf s.platform rs s.draws
          dirty := overlaps rs || meetsDevice s.platform rs } } :=
  ⟨(s.startRun i rs).breaches, by simp [State.startRun]⟩

/-- A frame changes memory and the hidden state alone. -/
theorem frameTurn_eq (r : Run) (s : State) :
    frameTurn r s = { s with mem := (frameTurn r s).mem, run := (frameTurn r s).run } := by
  unfold frameTurn
  cases r.instr <;> rfl

theorem completionWrites_eq (r : Run) (s : State) :
    completionWrites r s = { s with
      mem := (completionWrites r s).mem, peakIn := (completionWrites r s).peakIn,
      peakOut := (completionWrites r s).peakOut, ss := (completionWrites r s).ss
      ms := (completionWrites r s).ms } := by
  unfold completionWrites
  cases r.instr <;> rfl

theorem spoilIf_eq (s : State) (dirty : Bool) (rs : List Region) :
    s.spoilIf dirty rs = { s with
      mem := (s.spoilIf dirty rs).mem, peakIn := (s.spoilIf dirty rs).peakIn,
      peakOut := (s.spoilIf dirty rs).peakOut, draws := (s.spoilIf dirty rs).draws } := by
  unfold State.spoilIf
  cases dirty with
  | false => rfl
  | true => rw [freeOut_eq]; rfl

/-- A completion (R128) changes memory, PEAK_* and the contexts, sets DONE and makes the engine IDLE. -/
theorem completeRun_eq (r : Run) (s : State) :
    completeRun r s = { s with
      mem := (completeRun r s).mem, peakIn := (completeRun r s).peakIn, peakOut := (completeRun r s).peakOut,
      ss := (completionWrites r s).ss, ms := (completionWrites r s).ms, draws := (completeRun r s).draws
      unseen := (completeRun r s).unseen, done := true, run := none } := by
  unfold completeRun
  rw [spoilIf_eq, completionWrites_eq]
  rfl

/-- An abort (R129) changes memory and PEAK_*, writes the record of ERR_BUS and makes the engine IDLE. -/
theorem abortRun_eq (addr : Word) (r : Run) (s : State) :
    abortRun addr r s = { s with
      mem := (abortRun addr r s).mem, peakIn := (abortRun addr r s).peakIn, peakOut := (abortRun addr r s).peakOut,
      draws := (abortRun addr r s).draws, unseen := (abortRun addr r s).unseen,
      breaches := (abortRun addr r s).breaches, done := true, err := true, errCode := .bus, errAddr := addr
      run := none } := by
  unfold abortRun
  rw [freeOut_eq]
  cases r.dirty <;> rfl

/-! ### The running command stays sound -/

theorem regionsLegal_of_accepted {i : Instr} {s : State} (h : i.accepted s = true) :
    regionsLegal (regionsOf i s.args) = true := by
  simp only [Instr.accepted, Bool.and_eq_true] at h
  exact h.2

theorem gainsLegal_of_accepted {i : Instr} {s : State} (h : i.accepted s = true) : gainsLegal i s.args = true := by
  simp only [Instr.accepted, Bool.and_eq_true] at h
  exact h.1.2

/-- The regions of a sound running command are legal. -/
theorem State.runSound.legal {s : State} (h : s.runSound) {r : Run} (hr : s.run = some r) :
    regionsLegal (s.runRegions r) = true := by
  obtain ⟨-, hacc, -⟩ := h r hr
  exact regionsLegal_of_accepted hacc

/-- An IDLE engine has no command to be sound. -/
theorem runSound_of_idle {s : State} (h : s.run = none) : s.runSound := fun r hr => by simp [h] at hr

theorem runSound_move {s t : State} (h : Move s t) (hs : s.runSound) : t.runSound := by
  cases h with
  | quiet => exact hs
  | touch dirty =>
    intro r hr
    obtain ⟨r', hr', rfl⟩ := Option.map_eq_some_iff.1 hr
    exact hs r' hr'
  | status v =>
    rw [writeStatus_eq]
    intro r hr
    obtain ⟨hruns, hacc, hle, hdone, herr⟩ := hs r hr
    exact ⟨hruns, hacc, hle, by simp [hdone], by simp [herr]⟩
  | args a hidle => exact runSound_of_idle hidle
  | store => exact hs
  | reset => exact runSound_of_idle rfl
  | reject code addr hidle => exact runSound_of_idle hidle
  | initStereo => exact runSound_of_idle rfl
  | initMono => exact runSound_of_idle rfl
  | start i hidle hruns hacc =>
    obtain ⟨breaches, heq⟩ := startRun_eq s.acceptCmd i (regionsOf i s.args)
    rw [heq]
    rintro r ⟨⟩
    exact ⟨hruns, hacc, Nat.zero_le _, rfl, rfl⟩
  | abort r addr => exact runSound_of_idle rfl
  | frame r hrun hlt =>
    obtain ⟨hruns, hacc, -, hdone, herr⟩ := hs r hrun
    obtain ⟨r', heq, hinstr, hframe, -, -⟩ := frameTurn_run r s hruns
    rw [heq]
    rintro _ ⟨⟩
    exact ⟨hinstr ▸ hruns, hinstr ▸ hacc, by simp only [hframe]; omega, hdone, herr⟩
  | complete r => exact runSound_of_idle rfl

/-! ### The error record stays sound -/

theorem recordSound_move {s t : State} (h : Move s t) (hs : s.recordSound) : t.recordSound := by
  cases h with
  | status v =>
    rw [writeStatus_eq]
    unfold State.recordSound
    cases v.getLsbD 2 with
    | true => exact ⟨by simp, fun _ => rfl⟩
    | false => exact hs
  | reset => exact ⟨⟨fun _ => rfl, fun _ => rfl⟩, fun _ => rfl⟩
  | reject code addr hidle hcode => exact ⟨by simp [hcode], nofun⟩
  | initStereo | initMono | start => exact ⟨⟨fun _ => rfl, fun _ => rfl⟩, fun _ => rfl⟩
  | abort r addr =>
    rw [abortRun_eq]
    exact ⟨by simp, nofun⟩
  | frame r =>
    rw [frameTurn_eq]
    exact hs
  | complete r =>
    rw [completeRun_eq]
    exact hs
  | _ => exact hs

/-! ### The configuration is fixed -/

theorem cfg_move {s t : State} (h : Move s t) : t.cfg = s.cfg := by
  cases h with
  | status v => rw [writeStatus_eq]
  | abort r addr => rw [abortRun_eq]
  | frame r => rw [frameTurn_eq]
  | complete r => rw [completeRun_eq]
  | _ => rfl

/-! ### Memory stays canonical and within the address space -/

/-- The regions a reset abandons are those of a sound running command, or none. -/
theorem State.runSound.abandoned_legal {s : State} (h : s.runSound) : regionsLegal s.abandoned = true := by
  cases hrun : s.run with
  | none => rw [State.abandoned_idle hrun]; rfl
  | some r => rw [State.abandoned_running hrun]; exact h.legal hrun

/-- From a sound state every move writes memory at 32-bit addresses only (R43). -/
theorem mem_move {s t : State} (h : Move s t) (hs : s.runSound) : s.mem.WritesIn (· < 2 ^ 32) t.mem := by
  cases h with
  | status v => rw [writeStatus_eq]; exact .refl
  | store addr v => exact .byte v .refl addr.isLt
  | reset => exact (resetBlock_writesIn s).mono fun _ => lt_of_outByte hs.abandoned_legal
  | abort r addr hrun => exact (abortRun_writesIn addr r s).mono fun _ => lt_of_outByte (hs.legal hrun)
  | frame r hrun hlt => exact (frameTurn_writesIn (hs.legal hrun) hlt).mono fun _ => lt_of_outByte (hs.legal hrun)
  | complete r hrun => exact (completeRun_writesIn r s).mono fun _ => lt_of_outByte (hs.legal hrun)
  | _ => exact .refl

/-! ### The smoothing gains stay valid -/

theorem gainsValid_setStereo {s : State} (h : s.gainsValid) (ctx : BitVec 4) {x : StereoCtx}
    (hin : ∀ j : Fin 8, validGain x.inp[j] = true) (hout : ∀ k : Fin 2, validGain x.out[k] = true) :
    (s.setStereo ctx x).gainsValid := by
  refine ⟨fun c => ?_, h.2⟩
  by_cases hc : ctx.toNat = c.val
  · have hget : (s.setStereo ctx x).ss[c] = x := by simp [hc]
    rw [hget]
    exact ⟨hin, hout⟩
  · have hget : (s.setStereo ctx x).ss[c] = s.ss[c] := Vector.getElem_set_ne ctx.isLt c.isLt hc
    rw [hget]
    exact h.1 c

theorem gainsValid_setMono {s : State} (h : s.gainsValid) (ctx : BitVec 4) {x : MonoCtx}
    (hin : ∀ k : Fin 4, validGain x.inp[k] = true) (hout : validGain x.out = true) :
    (s.setMono ctx x).gainsValid := by
  refine ⟨h.1, fun c => ?_⟩
  by_cases hc : ctx.toNat = c.val
  · have hget : (s.setMono ctx x).ms[c] = x := by simp [hc]
    rw [hget]
    exact ⟨hin, hout⟩
  · have hget : (s.setMono ctx x).ms[c] = s.ms[c] := Vector.getElem_set_ne ctx.isLt c.isLt hc
    rw [hget]
    exact h.2 c

/-- The contexts at reset hold 1.0, a valid gain (R37, R38). -/
theorem gainsValid_reset : State.reset.gainsValid := by
  unfold State.gainsValid
  decide

/-- The completion writes put accepted gain registers into the contexts (R101, R108). -/
theorem completionWrites_gainsValid {r : Run} {s : State} (hacc : r.instr.accepted s = true) (hs : s.gainsValid) :
    (completionWrites r s).gainsValid := by
  have hlegal := gainsLegal_of_accepted hacc
  unfold completionWrites
  generalize r.instr = i at *
  cases i with
  | smix ctx fx =>
    obtain ⟨hin, hout⟩ := of_decide_eq_true hlegal
    exact gainsValid_setStereo hs ctx hin hout
  | mmix ctx fx =>
    obtain ⟨hin, hout⟩ := of_decide_eq_true hlegal
    refine gainsValid_setMono hs ctx (fun k => ?_) hout
    fin_cases k
    exacts [hin 0, hin 1, hin 2, hin 3]
  | _ => exact hs

theorem gainsValid_move {s t : State} (h : Move s t) (hrun : s.runSound) (hs : s.gainsValid) : t.gainsValid := by
  cases h with
  | status v => rw [writeStatus_eq]; exact hs
  | reset => exact gainsValid_reset
  | initStereo ctx => exact gainsValid_setStereo hs ctx (by decide) (by decide)
  | initMono ctx => exact gainsValid_setMono hs ctx (by decide) (by decide)
  | abort r addr => rw [abortRun_eq]; exact hs
  | frame r => rw [frameTurn_eq]; exact hs
  | complete r hr =>
    obtain ⟨-, hacc, -⟩ := hrun r hr
    rw [completeRun_eq]
    exact completionWrites_gainsValid hacc hs
  | _ => exact hs

/-! ### The turns of an answered command -/

/-- Until its completion turn a command whose accesses are answered does one frame a turn, which changes memory and the
hidden state alone. -/
theorem engineTurns_frames {s : State} {r : Run} (hrun : s.run = some r) (hruns : r.instr.runs = true)
    (hfate : r.fate = .completes) (k : Nat) (hk : r.frame + k ≤ s.args.n) :
    ∃ m r', engineTurns k s = { s with mem := m, run := some r' } ∧ r'.instr = r.instr ∧ r'.frame = r.frame + k ∧
      r'.fate = .completes := by
  induction k with
  | zero => exact ⟨s.mem, r, by rw [← hrun]; rfl, rfl, rfl, hfate⟩
  | succ k ih =>
    obtain ⟨m, r', hturns, hinstr, hframe, hfate'⟩ := ih (by omega)
    obtain ⟨r'', hturn, hinstr', hframe', hfate'', -⟩ :=
      frameTurn_run r' { s with mem := m, run := some r' } (hinstr ▸ hruns)
    have hlt : r'.frame < s.args.n := by omega
    have hstep : engineTurns (k + 1) s = frameTurn r' { s with mem := m, run := some r' } := by
      rw [engineTurns_last, hturns]
      simp [engineTurn, hfate', hlt]
    rw [hstep]
    exact ⟨_, r'', hturn, hinstr'.trans hinstr, by omega, hfate''.trans hfate'⟩

/-- An accepted command whose accesses are all answered enters RUNNING at frame 0, bound to complete (R54, R127). -/
theorem exec_of_answered {i : Instr} {s : State} (hruns : i.runs = true) (hacc : i.accepted s = true)
    (hanswered : failures s.platform (regionsOf i s.args) = [])
    (hmargins : marginsAdmitted s.platform (regionsOf i s.args) = true) :
    ∃ breaches r, exec i s = .next { s with breaches := breaches, run := some r } ∧ r.instr = i ∧ r.frame = 0 ∧
      r.fate = .completes := by
  obtain ⟨breaches, hstart⟩ := startRun_eq s i (regionsOf i s.args)
  have hfate : fateOf s.platform (regionsOf i s.args) s.draws = .completes := by
    simp [fateOf, hmargins, (firstFailures_eq_nil_iff _ _).2 hanswered]
  exact ⟨breaches, _, (exec_of_accepted_runs hruns hacc).trans (congrArg _ hstart), rfl, rfl, hfate⟩

/-- A command's meaning leaves the arguments, memory, PEAK_*, the host's flags and the pending inputs (R41, R125). -/
theorem exec_frame {i : Instr} {s t : State} (h : exec i s = .next t) :
    SameHostSide s t ∧ t.mem = s.mem ∧ t.peakIn = s.peakIn ∧ t.peakOut = s.peakOut := by
  have hsame : ∀ u, exec i s = .next u → u = t := fun u hu => by cases hu.symm.trans h; rfl
  cases hacc : i.accepted s with
  | false =>
    obtain ⟨code, addr, -, -, hexec⟩ := exec_of_not_accepted hacc
    rw [← hsame _ hexec]
    exact ⟨⟨rfl, rfl, rfl, rfl, rfl, rfl, rfl⟩, rfl, rfl, rfl⟩
  | true =>
    rw [← hsame _ (exec_of_accepted hacc)]
    rcases acceptance_cases i s with ⟨ctx, hctx⟩ | ⟨ctx, hctx⟩ | ⟨-, hstart⟩
    · rw [hctx]; exact ⟨⟨rfl, rfl, rfl, rfl, rfl, rfl, rfl⟩, rfl, rfl, rfl⟩
    · rw [hctx]; exact ⟨⟨rfl, rfl, rfl, rfl, rfl, rfl, rfl⟩, rfl, rfl, rfl⟩
    · obtain ⟨breaches, heq⟩ := startRun_eq s i (regionsOf i s.args)
      rw [hstart, heq]
      exact ⟨⟨rfl, rfl, rfl, rfl, rfl, rfl, rfl⟩, rfl, rfl, rfl⟩

end Sys2Proof.Machine

namespace Sys2Proof.Proofs

open Sys2Proof.Machine

/-- Settles O44: the engine is IDLE at reset, and every context holds 1.0. -/
theorem resetMeetsTheInvariant : Obligations.ResetMeetsTheInvariant :=
  ⟨rfl, rfl, rfl, gainsValid_reset, runSound_of_idle rfl, ⟨fun _ => rfl, fun _ => rfl⟩, fun _ => rfl⟩

/-- Settles O45: each part of the invariant is kept by every move, given a sound running command, and a step is a chain
of moves. -/
theorem everyStepKeepsTheInvariant : Obligations.EveryStepKeepsTheInvariant := by
  intro s t hinv h
  obtain ⟨hcfg, hwf, hspace, hgains, hrun, hrecord⟩ := hinv
  have hsound : ∀ s t : State, Move s t → s.runSound → t.runSound := fun _ _ => runSound_move
  refine ⟨?_, ?_, ?_, ?_, ?_, ?_⟩
  · exact step_keeps (P := fun s => s.cfg.valid = true) hsound (fun s t hm _ hc => by rw [cfg_move hm, hc]) h hrun hcfg
  · exact step_keeps (P := fun s => s.mem.wf = true) hsound (fun _ _ hm hr => (mem_move hm hr).wf) h hrun hwf
  · exact step_keeps (P := fun s => s.mem.inSpace = true) hsound (fun _ _ hm hr => (mem_move hm hr).inSpace) h hrun
      hspace
  · exact step_keeps hsound (fun _ _ => gainsValid_move) h hrun hgains
  · exact step_keeps hsound (fun _ _ hm _ => runSound_move hm) h hrun hrun
  · exact step_keeps hsound (fun _ _ hm _ => recordSound_move hm) h hrun hrecord

/-- Settles O47: only SINIT, MINIT, a reset and a mixer's completion write a context, each with valid gains
(`gainsValid_move`). -/
theorem smoothingGainsStayValid : Obligations.SmoothingGainsStayValid :=
  ⟨gainsValid_reset, fun _ _ hgains hrun h =>
    step_keeps (fun _ _ => runSound_move) (fun _ _ => gainsValid_move) h hrun hgains⟩

/-- Settles O48: the turns before completion are frames (`engineTurns_frames`), and neither a command's meaning nor a
turn writes the host's side. -/
theorem execLeavesArgumentsAndMemory : Obligations.ExecLeavesArgumentsAndMemory := by
  refine ⟨fun i s hruns hacc hanswered hmargins => ?_, fun i s t h => ?_⟩
  · obtain ⟨breaches, r, hexec, hinstr, hframe, hfate⟩ := exec_of_answered hruns hacc hanswered hmargins
    refine ⟨_, hexec, fun k hk => ?_⟩
    obtain ⟨m, r', hturns, -⟩ := engineTurns_frames (s := { s with breaches := breaches, run := some r }) rfl
      (hinstr ▸ hruns) hfate k (by simpa [hframe] using hk)
    dsimp only
    rw [hturns]
    exact ⟨rfl, rfl, rfl, rfl, rfl, rfl⟩
  · obtain ⟨hhost, hmem, hpeakIn, hpeakOut⟩ := exec_frame h
    have hturns : ∀ k, SameHostSide s (engineTurns k t) := fun k => hhost.trans (engineTurns_sameHostSide k t)
    obtain ⟨hcfg, hirq, hwign, hargs, hplatform, hevents, -⟩ := hhost
    refine ⟨hargs, hmem, hpeakIn, hpeakOut, hirq, hwign, hcfg, hplatform, hevents, fun k => ?_⟩
    obtain ⟨-, hirq', hwign', hargs', -⟩ := hturns k
    exact ⟨hargs', hirq', hwign'⟩

end Sys2Proof.Proofs
end

section
/-! SUPPORT. What the engine's turns write, whatever was done to the running command, and the statements about
memory. -/

namespace Sys2Proof.Machine

/-! ### Memory stays canonical from any state -/

/-- A frame is a chain of byte writes, wherever its pointers lead. -/
theorem frameTurn_writes (r : Run) (s : State) : s.mem.WritesIn (fun _ => True) (frameTurn r s).mem := by
  unfold frameTurn
  cases r.instr with
  | sinit ctx | minit ctx => exact .refl
  | mmix ctx fx => exact Memory.WritesIn.refl.word _ fun _ _ _ => trivial
  | fxenc | fxdec => exact Memory.WritesIn.refl.word _ fun _ _ _ => trivial
  | f2s16 | p2s16 => exact (Memory.WritesIn.refl.half _ fun _ _ _ => trivial).half _ fun _ _ _ => trivial
  | smix ctx fx => exact (Memory.WritesIn.refl.word _ fun _ _ _ => trivial).word _ fun _ _ _ => trivial
  | s162f | ilv | dilv => exact (Memory.WritesIn.refl.word _ fun _ _ _ => trivial).word _ fun _ _ _ => trivial

/-- From any state every move is a chain of byte writes. -/
theorem mem_move_writes {s t : State} (h : Move s t) : s.mem.WritesIn (fun _ => True) t.mem := by
  cases h with
  | status v => rw [writeStatus_eq]; exact .refl
  | store addr v => exact .byte v .refl trivial
  | reset => exact (resetBlock_writesIn s).mono fun _ _ => trivial
  | abort r addr => exact (abortRun_writesIn addr r s).mono fun _ _ => trivial
  | frame r => exact frameTurn_writes r s
  | complete r => exact (completeRun_writesIn r s).mono fun _ _ => trivial
  | _ => exact .refl

/-! ### A running command from its acceptance to its end -/

/-- A stuck command's turn changes nothing (R56, U8, U10). -/
theorem engineTurn_of_stuck {s : State} {r : Run} (hrun : s.run = some r)
    (hfate : r.fate = .noMargin ∨ r.fate = .noResponse) : engineTurn s = s := by
  rcases hfate with hfate | hfate <;> simp [engineTurn, hrun, hfate]

/-- The turn of a command whose access fails is its abort (R129). -/
theorem engineTurn_of_busError {s : State} {r : Run} {addr : Word} (hrun : s.run = some r)
    (hfate : r.fate = .busError addr) : engineTurn s = abortRun addr r s := by
  simp [engineTurn, hrun, hfate]

/-- Before its last frame is done an answered command's turn is a frame. -/
theorem engineTurn_of_frame {s : State} {r : Run} (hrun : s.run = some r) (hfate : r.fate = .completes)
    (hlt : r.frame < s.args.n) : engineTurn s = frameTurn r s := by
  simp [engineTurn, hrun, hfate, hlt]

/-- After its last frame an answered command's turn is its completion (R128). -/
theorem engineTurn_of_completion {s : State} {r : Run} (hrun : s.run = some r) (hfate : r.fate = .completes)
    (hle : s.args.n ≤ r.frame) : engineTurn s = completeRun r s := by
  simp [engineTurn, hrun, hfate, Nat.not_lt.2 hle]

/-- What the turn of a given running command can be. -/
theorem engineTurn_running {s : State} {r : Run} (hrun : s.run = some r) :
    engineTurn s = s ∨ (∃ addr, engineTurn s = abortRun addr r s) ∨
    (r.frame < s.args.n ∧ engineTurn s = frameTurn r s) ∨ engineTurn s = completeRun r s := by
  cases hfate : r.fate with
  | noMargin => exact .inl (engineTurn_of_stuck hrun (.inl hfate))
  | noResponse => exact .inl (engineTurn_of_stuck hrun (.inr hfate))
  | busError addr => exact .inr (.inl ⟨addr, engineTurn_of_busError hrun hfate⟩)
  | completes =>
    rcases Nat.lt_or_ge r.frame s.args.n with hlt | hle
    · exact .inr (.inr (.inl ⟨hlt, engineTurn_of_frame hrun hfate hlt⟩))
    · exact .inr (.inr (.inr (engineTurn_of_completion hrun hfate hle)))

/-- A turn leaves the running command what it is, or ends it. -/
theorem engineTurn_run {s : State} {r : Run} (hrun : s.run = some r) (hruns : r.instr.runs = true) :
    (engineTurn s).run = none ∨ ∃ r', (engineTurn s).run = some r' ∧ r'.instr = r.instr := by
  rcases engineTurn_running hrun with h | ⟨addr, h⟩ | ⟨-, h⟩ | h <;> rw [h]
  · exact .inr ⟨r, hrun, rfl⟩
  · exact .inl rfl
  · obtain ⟨r', heq, hinstr, -⟩ := frameTurn_run r s hruns
    exact .inr ⟨r', by rw [heq], hinstr⟩
  · exact .inl rfl

/-- A turn of a command with legal regions writes only bytes of its "out" regions. -/
theorem engineTurn_writesIn {s : State} {r : Run} (hrun : s.run = some r)
    (hlegal : regionsLegal (s.runRegions r) = true) :
    s.mem.WritesIn (outByte (s.runRegions r)) (engineTurn s).mem := by
  rcases engineTurn_running hrun with h | ⟨addr, h⟩ | ⟨hlt, h⟩ | h <;> rw [h]
  · exact .refl
  · exact abortRun_writesIn addr r s
  · exact frameTurn_writesIn hlegal hlt
  · exact completeRun_writesIn r s

/-- Any number of turns of a command with legal regions writes only bytes of its "out" regions. -/
theorem engineTurns_writesIn {s : State} {r : Run} (hrun : s.run = some r) (hruns : r.instr.runs = true)
    (hlegal : regionsLegal (s.runRegions r) = true) (k : Nat) :
    s.mem.WritesIn (outByte (s.runRegions r)) (engineTurns k s).mem := by
  induction k generalizing s r with
  | zero => exact .refl
  | succ k ih =>
    rw [engineTurns_succ]
    refine (engineTurn_writesIn hrun hlegal).trans ?_
    rcases engineTurn_run hrun hruns with hidle | ⟨r', hrun', hinstr⟩
    · rw [engineTurns_idle hidle]
      exact .refl
    · obtain ⟨-, -, -, hargs, -⟩ := engineTurn_sameHostSide s
      have hregions : (engineTurn s).runRegions r' = s.runRegions r := by
        simp only [State.runRegions, hinstr, hargs]
      rw [← hregions] at hlegal ⊢
      exact ih hrun' (hinstr ▸ hruns) hlegal

/-- With no input pending a step of a RUNNING machine is a turn of the engine, or the machine is stuck (R146). -/
theorem step_running {s t : State} {r : Run} (hrun : s.run = some r) (hevents : s.events = [])
    (h : step s = .next t) : t = engineTurn s := by
  simp only [step, hevents, enginePending, hrun] at h
  cases hfate : r.fate <;> simp only [hfate] at h <;> cases h <;> rfl

/-- A command's meaning in an IDLE machine leaves it IDLE, or enters RUNNING with that command, accepted. -/
theorem exec_run {i : Instr} {s t : State} (hidle : s.run = none) (h : exec i s = .next t) :
    t.run = none ∨ i.accepted s = true ∧ i.runs = true ∧ ∃ r, t.run = some r ∧ r.instr = i := by
  cases hacc : i.accepted s with
  | false =>
    obtain ⟨code, addr, -, -, hexec⟩ := exec_of_not_accepted hacc
    cases hexec.symm.trans h
    exact .inl hidle
  | true =>
    cases (exec_of_accepted hacc).symm.trans h
    rcases acceptance_cases i s with ⟨ctx, hctx⟩ | ⟨ctx, hctx⟩ | ⟨hruns, hstart⟩
    · rw [hctx]; exact .inl rfl
    · rw [hctx]; exact .inl rfl
    · rw [hstart]; exact .inr ⟨rfl, hruns, _, rfl, rfl⟩

/-- From an IDLE machine a command and any number of turns after it change no byte outside its "out" regions. -/
theorem exec_turns_readByte {i : Instr} {s t : State} (hidle : s.run = none) (h : exec i s = .next t) (k : Nat)
    {a : Nat} (ha : inSpans (outSpans (regionsOf i s.args)) a = false) :
    (engineTurns k t).mem.readByte a = s.mem.readByte a := by
  obtain ⟨⟨-, -, -, hargs, -⟩, hmem, -⟩ := exec_frame h
  rw [← hmem]
  rcases exec_run hidle h with hidle' | ⟨hacc, hruns, r, hrun, hinstr⟩
  · rw [engineTurns_idle hidle']
  · have hregions : t.runRegions r = regionsOf i s.args := by rw [State.runRegions, hinstr, hargs]
    have hlegal : regionsLegal (t.runRegions r) = true := hregions ▸ regionsLegal_of_accepted hacc
    refine (engineTurns_writesIn hrun (hinstr ▸ hruns) hlegal k).readByte ?_
    simp [outByte, hregions, ha]

end Sys2Proof.Machine

namespace Sys2Proof.Proofs

open Sys2Proof.Machine

/-- Settles O46: every move is a chain of byte writes, and a byte write keeps the canonical form. -/
theorem everyStepKeepsMemoryCanonical : Obligations.EveryStepKeepsMemoryCanonical :=
  fun _ _ hwf h =>
    step_keeps (A := fun _ => True) (P := fun s => s.mem.wf = true) (fun _ _ _ _ => trivial)
      (fun _ _ hmove _ => (mem_move_writes hmove).wf) h trivial hwf

/-- Settles O41: the writes of a turn lie in the "out" regions of the running command, and turns keep the command and
its arguments. -/
theorem engineWritesOnlyOutRegions : Obligations.EngineWritesOnlyOutRegions := by
  refine ⟨fun s r hsound hrun a ha => ?_, fun i s t hidle h k a => exec_turns_readByte hidle h k⟩
  have hturn : (engineTurn s).mem.readByte a = s.mem.readByte a :=
    (engineTurn_writesIn hrun (hsound.legal hrun)).readByte (by simp [outByte, ha])
  exact ⟨hturn, fun t hevents hstep => step_running hrun hevents hstep ▸ hturn⟩

end Sys2Proof.Proofs
end

section
/-! SUPPORT. The pointer checks of R123 in their order, and the statements about the pointers a command reads. -/

namespace Sys2Proof.Machine

theorem checksOf_regions (i : Instr) (s : State) : (checksOf i s).regions = regionsOf i s.args := by
  cases i <;> rfl

/-- The checks before those of pointers: the row, CTX, COUNT and the gains (R123). -/
def Checks.pointersReached (c : Checks) : Prop :=
  c.present = true ∧ c.ctxOk = true ∧ c.countOk = true ∧ ∀ g ∈ c.gains, validGain g.2 = true

/-- The checks of a command before those of its pointers are the conditions of R121. -/
theorem checksOf_pointersReached {i : Instr} {s : State} (hwf : i.wellFormed s.cfg = true)
    (hcount : countLegal i s.args.n = true) (hgains : gainsLegal i s.args = true) :
    (checksOf i s).pointersReached := by
  cases i <;>
    simp_all [Checks.pointersReached, checksOf, sinitChecks, smixChecks, minitChecks, mmixChecks, fxencChecks,
      fxdecChecks, f2s16Checks, p2s16Checks, s162fChecks, ilvChecks, dilvChecks, bufferChecks, Instr.wellFormed,
      countLegal, gainsLegal, Args.countIn, stereoGains, monoGains, Fin.forall_fin_succ]

/-- The first error of a command's pointers: null, then misaligned, then out of range (R123). -/
def pointerError (rs : List Region) : Option (ErrCode × Word) :=
  ((rs.find? Region.isNull).map fun r => (.null, r.reg)).or
  (((rs.find? Region.misaligned).map fun r => (.align, r.ptr)).or
  ((rs.find? Region.outOfRange).map fun r => (.range, r.ptr)))

/-- Past the earlier checks the first error is that of the pointers. -/
theorem Checks.firstError_of_pointersReached {c : Checks} (h : c.pointersReached) :
    c.firstError = pointerError c.regions := by
  obtain ⟨hpresent, hctx, hcount, hgains⟩ := h
  have hgain : c.gains.find? (fun g => !validGain g.2) = none := by simpa using hgains
  simp only [Checks.firstError, hpresent, hctx, hcount, hgain, pointerError]
  cases c.regions.find? Region.isNull <;> cases c.regions.find? Region.misaligned <;>
    cases c.regions.find? Region.outOfRange <;> rfl

/-- A command whose earlier checks pass is rejected with the first error of its pointers (R125). -/
theorem exec_of_pointerError {i : Instr} {s : State} {code : ErrCode} {addr : Word} (hwf : i.wellFormed s.cfg = true)
    (hcount : countLegal i s.args.n = true) (hgains : gainsLegal i s.args = true)
    (herror : pointerError (regionsOf i s.args) = some (code, addr)) : exec i s = .next (s.reject code addr) := by
  have hfirst := Checks.firstError_of_pointersReached (checksOf_pointersReached hwf hcount hgains)
  rw [checksOf_regions, herror] at hfirst
  rw [exec_eq_submit, submit, hfirst]

/-- The first region for which a check fails. -/
theorem find?_region {rs before after : List Region} {r : Region} {check : Region → Bool}
    (hrs : rs = before ++ r :: after) (hbefore : ∀ q ∈ before, check q = false) (hr : check r = true) :
    rs.find? check = some r :=
  List.find?_eq_some_iff_append.2 ⟨hr, before, after, hrs, fun q hq => by simp [hbefore q hq]⟩

theorem Region.isNull_eq_false_iff (r : Region) : r.isNull = false ↔ (r.required = true → r.ptr ≠ 0) := by
  simp [Region.isNull, Region.used]

/-- No required pointer is null. -/
theorem find?_isNull_eq_none {rs : List Region} (h : ∀ q ∈ rs, q.required = true → q.ptr ≠ 0) :
    rs.find? Region.isNull = none :=
  List.find?_eq_none.2 fun q hq => by simp [(Region.isNull_eq_false_iff q).2 (h q hq)]

/-- The region of OUT0 comes behind the sources of every command that runs (R50). -/
theorem regionsOf_out0 (i : Instr) (a : Args) (hruns : i.runs = true) :
    ∃ before after r, regionsOf i a = before ++ r :: after ∧ (∀ q ∈ before, q.out = false) ∧ r.required = true ∧
      r.ptr = a.out[0] ∧ r.reg = 0x030 := by
  have hins : ∀ q ∈ (regionsOf i a).takeWhile (fun q => !q.out), q.out = false := fun q hq => by
    simpa using List.mem_takeWhile_imp hq
  cases i with
  | sinit | minit => cases hruns
  | _ => exact ⟨_, _, _, rfl, hins, rfl, rfl, rfl⟩

/-- IN0 is the first region of every converter, and required (R50). -/
theorem regionsOf_in0 {i : Instr} (a : Args)
    (hi : i ∈ [Instr.fxenc, .fxdec, .f2s16, .p2s16, .s162f, .ilv, .dilv]) :
    ∃ after r, regionsOf i a = r :: after ∧ r.required = true ∧ r.ptr = a.inp[0] ∧ r.reg = 0x020 := by
  simp only [List.mem_cons, List.not_mem_nil, or_false] at hi
  rcases hi with rfl | rfl | rfl | rfl | rfl | rfl | rfl <;> exact ⟨_, _, rfl, rfl, rfl, rfl⟩

/-- The first missing required pointer is ERR_NULL with its register's offset (R121, R122). -/
theorem exec_null {i : Instr} {s : State} {before after : List Region} {r : Region} (hwf : i.wellFormed s.cfg = true)
    (hcount : countLegal i s.args.n = true) (hgains : gainsLegal i s.args = true)
    (hrs : regionsOf i s.args = before ++ r :: after) (hbefore : ∀ q ∈ before, q.required = true → q.ptr ≠ 0)
    (hreq : r.required = true) (hptr : r.ptr = 0) : exec i s = .next (s.reject .null r.reg) := by
  have hnull : (regionsOf i s.args).find? Region.isNull = some r :=
    find?_region hrs (fun q hq => (Region.isNull_eq_false_iff q).2 (hbefore q hq))
      (by simp [Region.isNull, Region.used, hreq, hptr])
  exact exec_of_pointerError hwf hcount hgains (by rw [pointerError, hnull]; rfl)

end Sys2Proof.Machine

namespace Sys2Proof.Proofs

open Sys2Proof.Machine

/-- Settles O21: the table of R50 by unfolding it, and each missing pointer by the place of its region in the table. -/
theorem nullPointerIsErrNull : Obligations.NullPointerIsErrNull := by
  refine ⟨fun a ctx fx => ?_, fun i s hwf hcount hgains => ⟨fun hi hin0 => ?_, ?_, fun hruns hins hout0 => ?_, ?_⟩,
    fun i s before after r hwf hcount hgains hrs hbefore hreq hptr =>
      exec_null hwf hcount hgains hrs hbefore hreq hptr⟩
  · refine ⟨rfl, rfl, ?_⟩
    simp [regionsOf, smixRegions, mmixRegions, fxencRegions, fxdecRegions, f2s16Regions, p2s16Regions, s162fRegions,
      ilvRegions, dilvRegions, srcRegion, dstRegion, meterRegion, Region.bytes, Args.split, Args.n, ← Nat.mul_assoc]
  · obtain ⟨after, r, hrs, hreq, hptr, hreg⟩ := regionsOf_in0 s.args hi
    exact hreg ▸ exec_null (before := []) hwf hcount hgains hrs nofun hreq (hptr.trans hin0)
  · rintro (rfl | rfl) hin0 hin1
    · exact exec_null (before := [srcRegion s.args 0 4 1 true 8]) hwf hcount hgains rfl (by simpa [srcRegion]) rfl hin1
    · exact exec_null (before := [srcRegion s.args 0 4 1 true 0]) hwf hcount hgains rfl (by simpa [srcRegion]) rfl hin1
  · obtain ⟨before, after, r, hrs, hbefore, hreq, hptr, hreg⟩ := regionsOf_out0 i s.args hruns
    exact hreg ▸ exec_null hwf hcount hgains hrs (fun q hq => hins q (by simp [hrs, hq]) (hbefore q hq)) hreq
      (hptr.trans hout0)
  · rintro rfl hin0 hout0 hout1
    exact exec_null (before := [srcRegion s.args 0 4 2 true 0, dstRegion s.args 0 4 1 true 0]) hwf hcount hgains rfl
      (by simpa [srcRegion, dstRegion] using ⟨hin0, hout0⟩) rfl hout1

/-- Settles O22: with every required pointer present, the first misaligned region decides (`exec_of_pointerError`); a
null pointer counts as aligned. -/
theorem misalignedPointerIsErrAlign : Obligations.MisalignedPointerIsErrAlign := by
  intro i s before after r hwf hcount hgains hnull hrs hbefore hr
  have halign : (regionsOf i s.args).find? Region.misaligned = some r := by
    have hptr : r.ptr ≠ 0 := fun h => hr (by simp [h])
    exact find?_region hrs (fun q hq => by simp [Region.misaligned, hbefore q hq])
      (by simpa [Region.misaligned, Region.used, hr] using hptr)
  exact exec_of_pointerError hwf hcount hgains (by rw [pointerError, find?_isNull_eq_none hnull, halign]; rfl)

/-- Settles O23: with every pointer present and aligned, the first region past the top decides. -/
theorem regionPastTheTopIsErrRange : Obligations.RegionPastTheTopIsErrRange := by
  intro i s before after r hwf hcount hgains hnull halign hrs hbefore hptr hr
  have haligned : (regionsOf i s.args).find? Region.misaligned = none :=
    List.find?_eq_none.2 fun q hq => by simp [Region.misaligned, halign q hq]
  have hrange : (regionsOf i s.args).find? Region.outOfRange = some r := by
    refine find?_region hrs (fun q hq => ?_) ?_
    · rcases hbefore q hq with h | h
      · simp [Region.outOfRange, Region.used, h]
      · have hfits : ¬ 2 ^ 32 < q.ptr.toNat + q.bytes := Nat.not_lt.2 h
        simp only [Region.outOfRange, gt_iff_lt, decide_eq_false hfits, Bool.and_false]
    · simpa [Region.outOfRange, Region.used, Region.bytes] using ⟨hptr, hr⟩
  exact exec_of_pointerError hwf hcount hgains (by rw [pointerError, find?_isNull_eq_none hnull, haligned, hrange]; rfl)

end Sys2Proof.Proofs
end

section
/-! SUPPORT. How a command ends when accesses fail, margins are missing or regions overlap (R54, R56, R57), and the
statements about it. -/

namespace Sys2Proof.Machine

/-- An accepted command enters RUNNING with its fate, marked if its regions overlap or meet a device (R127). -/
theorem exec_starts {i : Instr} {s : State} (hruns : i.runs = true) (hacc : i.accepted s = true) :
    ∃ breaches r, exec i s = .next { s with breaches := breaches, run := some r } ∧ r.instr = i ∧
      r.fate = fateOf s.platform (regionsOf i s.args) s.draws ∧
      r.dirty = (overlaps (regionsOf i s.args) || meetsDevice s.platform (regionsOf i s.args)) := by
  obtain ⟨breaches, hstart⟩ := startRun_eq s i (regionsOf i s.args)
  exact ⟨breaches, _, (exec_of_accepted_runs hruns hacc).trans (congrArg _ hstart), rfl, rfl, rfl⟩

/-! ### Failing accesses -/

/-- A failing access is at an element of a used region (R54). -/
theorem addr_of_mem_failures {platform : List Area} {rs : List Region} {f : FailedAccess}
    (hf : f ∈ failures platform rs) :
    ∃ r ∈ rs, r.used = true ∧ ∃ j < r.count, f.addr = elemAddr r.ptr r.elem j := by
  obtain ⟨r, hr, hf⟩ := List.mem_flatMap.1 hf
  unfold Region.failures at hf
  split at hf
  · next hused =>
    obtain ⟨j, hj, hf⟩ := List.mem_filterMap.1 hf
    refine ⟨r, hr, hused, j, List.mem_range.1 hj, ?_⟩
    dsimp only at hf
    split at hf <;> cases hf
    rfl
  · cases hf

/-- A failing access of legal regions has a 32-bit address (R49). -/
theorem addr_lt_of_mem_failures {platform : List Area} {rs : List Region} (h : regionsLegal rs = true)
    {f : FailedAccess} (hf : f ∈ failures platform rs) : f.addr < 2 ^ 32 := by
  obtain ⟨r, hr, hused, j, hj, haddr⟩ := addr_of_mem_failures hf
  have hrange := ((regionsLegal_iff rs).1 h r hr).2.2
  have hend : r.ptr.toNat + r.bytes ≤ 2 ^ 32 := by simpa [Region.outOfRange, hused] using hrange
  have hle : r.elem * (j + 1) ≤ r.bytes := Nat.mul_le_mul_left _ hj
  have hptr := r.ptr.isLt
  rw [Nat.mul_succ] at hle
  rw [haddr, elemAddr]
  rcases Nat.eq_zero_or_pos r.elem with hzero | hpos
  · simpa [hzero] using hptr
  · omega

/-- With margins admitted, some access failing and no silent one that can be met first, a command's fate is an error
response at one that can be met first (R54, R122). -/
theorem fateOf_busError {platform : List Area} {rs : List Region} (draw : Nat)
    (hmargins : marginsAdmitted platform rs = true) (hfail : failures platform rs ≠ [])
    (hanswered : ∀ f ∈ firstFailures platform rs, f.kind ≠ .silent) :
    ∃ f ∈ firstFailures platform rs, fateOf platform rs draw = .busError (BitVec.ofNat 32 f.addr) := by
  rcases fateOf_cases platform rs draw with ⟨hm, -⟩ | ⟨-, hnone, -⟩ | ⟨f, hf, -, hfate⟩
  · simp [hmargins] at hm
  · exact absurd hnone hfail
  · exact ⟨f, hf, by rw [hfate, if_neg (hanswered f hf)]⟩

/-- An abort leaves the contexts and the arguments (R129). -/
theorem abortRun_contexts (addr : Word) (r : Run) (s : State) :
    (abortRun addr r s).ss = s.ss ∧ (abortRun addr r s).ms = s.ms ∧ (abortRun addr r s).args = s.args := by
  rw [abortRun_eq]
  exact ⟨rfl, rfl, rfl⟩

/-- The abort of a command for which no duty was broken leaves PEAK_* (R129). -/
theorem abortRun_peaks (addr : Word) {r : Run} (s : State) (hclean : r.dirty = false) :
    (abortRun addr r s).peakIn = s.peakIn ∧ (abortRun addr r s).peakOut = s.peakOut := by
  unfold abortRun
  rw [hclean, freeOut_eq]
  exact ⟨rfl, rfl⟩

/-! ### Contexts after completion -/

theorem stereo_setStereo (s : State) (c d : BitVec 4) (x : StereoCtx) :
    (s.setStereo c x).stereo d = if d = c then x else s.stereo d := by
  split
  · next h => rw [h, State.stereo_setStereo_same]
  · next h => exact State.stereo_setStereo_ne s x h

theorem mono_setMono (s : State) (c d : BitVec 4) (x : MonoCtx) :
    (s.setMono c x).mono d = if d = c then x else s.mono d := by
  split
  · next h => rw [h, State.mono_setMono_same]
  · next h => exact State.mono_setMono_ne s x h

/-- The completion adds the command's "out" regions to what the host has not acquired (R59). -/
theorem completeRun_unseen (r : Run) (s : State) :
    (completeRun r s).unseen = outSpans (s.runRegions r) ++ s.unseen := by
  simp only [completeRun, State.endCommand]
  rw [spoilIf_eq, completionWrites_eq]

/-- The completion leaves the contexts as the command's own completion writes do. -/
theorem completeRun_contexts (r : Run) (s : State) (c : BitVec 4) :
    (completeRun r s).stereo c = (completionWrites r s).stereo c ∧
    (completeRun r s).mono c = (completionWrites r s).mono c := by
  rw [completeRun_eq]
  exact ⟨rfl, rfl⟩

/-- An accepted command whose accesses are answered ends after its frames and one completion turn (R128). -/
theorem exec_completes {i : Instr} {s : State} (hruns : i.runs = true) (hacc : i.accepted s = true)
    (hanswered : failures s.platform (regionsOf i s.args) = [])
    (hmargins : marginsAdmitted s.platform (regionsOf i s.args) = true) :
    ∃ t m r breaches, exec i s = .next t ∧ r.instr = i ∧
      engineTurns (s.args.n + 1) t = completeRun r { s with mem := m, run := some r, breaches := breaches } := by
  obtain ⟨breaches, r, hexec, hinstr, hframe, hfate⟩ := exec_of_answered hruns hacc hanswered hmargins
  obtain ⟨m, r', hturns, hinstr', hframe', hfate'⟩ :=
    engineTurns_frames (s := { s with breaches := breaches, run := some r }) rfl (hinstr ▸ hruns) hfate s.args.n
      (by simp [hframe])
  refine ⟨_, m, r', breaches, hexec, hinstr'.trans hinstr, ?_⟩
  rw [engineTurns_last, hturns]
  exact engineTurn_of_completion rfl hfate' (by simp [hframe', hframe])

end Sys2Proof.Machine

namespace Sys2Proof.Proofs

open Sys2Proof.Machine

/-- Settles O38: the fate of the command is an error response at an access that can be met first, and its
first turn is the abort. -/
theorem busErrorAborts : Obligations.BusErrorAborts := by
  intro i s hruns hacc hmargins hfail hanswered
  obtain ⟨f, hf, hfate⟩ := fateOf_busError s.draws hmargins hfail fun f hf =>
    hanswered f (mem_firstFailures.1 hf).1 (mem_firstFailures.1 hf).2
  obtain ⟨hmem, hfirst⟩ := mem_firstFailures.1 hf
  have haddr : (BitVec.ofNat 32 f.addr).toNat = f.addr := by
    rw [BitVec.toNat_ofNat, Nat.mod_eq_of_lt (addr_lt_of_mem_failures (regionsLegal_of_accepted hacc) hmem)]
  obtain ⟨breaches, r, hexec, hinstr, hrfate, hdirty⟩ := exec_starts hruns hacc
  refine ⟨_, hexec, rfl, ?_⟩
  dsimp only
  rw [engineTurn_of_busError rfl (hrfate.trans hfate)]
  have hregions : ({ s with breaches := breaches, run := some r } : State).runRegions r = regionsOf i s.args := by
    rw [State.runRegions, hinstr]
  obtain ⟨hss, hms, hargs⟩ :=
    abortRun_contexts (BitVec.ofNat 32 f.addr) r { s with breaches := breaches, run := some r }
  refine ⟨rfl, rfl, rfl, rfl, ⟨f, hmem, haddr, hfirst⟩, hss, hms, hargs, fun hoverlaps hdevice => ?_, fun a ha => ?_⟩
  · exact abortRun_peaks _ _ (by rw [hdirty, hoverlaps, hdevice]; rfl)
  · exact (abortRun_writesIn _ r _).readByte (by simp [outByte, hregions, ha])

/-- Settles O39: a command without its margins has the fate of the stuck state. -/
theorem missingMarginsLeaveTheCommandStuck : Obligations.MissingMarginsLeaveTheCommandStuck := by
  intro i s hruns hacc hmargins
  obtain ⟨breaches, r, hexec, -, hfate, -⟩ := exec_starts hruns hacc
  replace hfate : r.fate = .noMargin := by simp [hfate, fateOf, hmargins]
  refine ⟨_, hexec, rfl, fun k => ?_, ?_, _, rfl, rfl⟩
  · induction k with
    | zero => rfl
    | succ k ih => rwa [engineTurns_succ, engineTurn_of_stuck rfl (.inl hfate)]
  · simp [step, enginePending, hfate]

/-- Settles O40: the command's turns are its frames and its completion (`exec_completes`), which free nothing but its
"out" regions and PEAK_*. -/
theorem overlapSpoilsOnlyOutputsAndPeaks : Obligations.OverlapSpoilsOnlyOutputsAndPeaks := by
  intro i s hruns hacc hidle hanswered hmargins
  obtain ⟨t, m, r, breaches, hexec, hinstr, hend⟩ := exec_completes hruns hacc hanswered hmargins
  have hbytes := fun a ha => exec_turns_readByte (a := a) hidle hexec (s.args.n + 1) ha
  refine ⟨t, _, hexec, rfl, ?_, fun c => ?_, fun c => ?_, hbytes⟩
  · rw [hend, completeRun_eq, completeRun_unseen, State.runRegions, hinstr, hidle]
  · rw [hend, (completeRun_contexts _ _ c).1, completionWrites, hinstr]
    cases i with
    | smix ctx fx => exact stereo_setStereo _ ctx c _
    | _ => rfl
  · rw [hend, (completeRun_contexts _ _ c).2, completionWrites, hinstr]
    cases i with
    | mmix ctx fx => exact mono_setMono _ ctx c _
    | _ => rfl

end Sys2Proof.Proofs
end

section
/-! SUPPORT. The host's accesses to memory towards a running command (R60) and after an acquire (R59), and the
statements about them. -/

namespace Sys2Proof.Machine

/-! ### The mark of a broken duty -/

theorem touchIf_false (s : State) : s.touchIf false = s := by
  have hmark : s.run.map (fun (r : Run) => { r with dirty := r.dirty || false }) = s.run := by
    cases s.run <;> simp
  rw [State.touchIf, State.noteIf_false, hmark]

/-- A touch marks the running command and is recorded (R148). -/
theorem touchIf_true {s : State} {r : Run} (hrun : s.run = some r) :
    (s.touchIf true).run = some { r with dirty := true } ∧ .hostTouch ∈ (s.touchIf true).breaches := by
  refine ⟨by simp [State.touchIf, hrun], ?_⟩
  by_cases h : Breach.hostTouch ∈ s.breaches <;> simp [State.touchIf, h]

theorem runHas_running {s : State} {r : Run} (hrun : s.run = some r) (spans : List Region → List Span) (a : Nat) :
    s.runHas spans a = inSpans (spans (s.runRegions r)) a := by
  simp [State.runHas, hrun]

theorem runHas_idle {s : State} (hidle : s.run = none) (spans : List Region → List Span) (a : Nat) :
    s.runHas spans a = false := by
  simp [State.runHas, hidle]

/-- A load that races with nothing reads what memory holds. -/
theorem hostLoad_ordered {s : State} {addr : Word} (hrun : s.runHas outSpans addr.toNat = false)
    (hunseen : inSpans s.unseen addr.toNat = false) :
    hostLoad s addr = { s with reply := .byte (s.mem.readByte addr.toNat) } := by
  simp [hostLoad, hrun, hunseen, touchIf_false]

/-- A store that races with nothing is what the byte then holds. -/
theorem hostStore_ordered {s : State} {addr : Word} (v : Byte) (hrun : s.runHas usedSpans addr.toNat = false)
    (hunseen : inSpans s.unseen addr.toNat = false) :
    hostStore s addr v = { s with mem := s.mem.writeByte addr.toNat v, reply := .ok } := by
  simp [hostStore, hrun, hunseen, touchIf_false]

/-- While IDLE, with nothing unseen, a load reads what memory holds (R59). -/
theorem hostLoad_acquired {s : State} (hidle : s.run = none) (hseen : s.unseen = []) (addr : Word) :
    hostLoad s addr = { s with reply := .byte (s.mem.readByte addr.toNat) } :=
  hostLoad_ordered (runHas_idle hidle _ _) (by rw [hseen]; rfl)

/-- While IDLE, with nothing unseen, a store is what the byte then holds (R59). -/
theorem hostStore_acquired {s : State} (hidle : s.run = none) (hseen : s.unseen = []) (addr : Word) (v : Byte) :
    hostStore s addr v = { s with mem := s.mem.writeByte addr.toNat v, reply := .ok } :=
  hostStore_ordered v (runHas_idle hidle _ _) (by rw [hseen]; rfl)

/-- A load leaves the run and the record of breaches as its touch does. -/
theorem hostLoad_run (s : State) (addr : Word) :
    (hostLoad s addr).run = (s.touchIf (s.runHas outSpans addr.toNat)).run ∧
    (hostLoad s addr).breaches = (s.touchIf (s.runHas outSpans addr.toNat)).breaches := by
  dsimp only [hostLoad]
  split <;> exact ⟨rfl, rfl⟩

/-- A store leaves the run and the record of breaches as its touch does. -/
theorem hostStore_run (s : State) (addr : Word) (v : Byte) :
    (hostStore s addr v).run = (s.touchIf (s.runHas usedSpans addr.toNat)).run ∧
    (hostStore s addr v).breaches = (s.touchIf (s.runHas usedSpans addr.toNat)).breaches := by
  dsimp only [hostStore]
  split <;> exact ⟨rfl, rfl⟩

/-! ### What a marked command leaves -/

/-- A byte that is a free value drawn after the first `d` draws. -/
def Memory.freeAfter (d : Nat) (m : Memory) (a : Nat) : Prop := ∃ d', d ≤ d' ∧ m.readByte a = Config.freeByte d'

/-- Making spans free draws values. -/
theorem foldl_freeSpan_draws (sps : List Span) (s : State) : s.draws ≤ (sps.foldl State.freeSpan s).draws := by
  induction sps generalizing s with
  | nil => exact Nat.le_refl _
  | cons sp sps ih => exact (Nat.le_add_right _ sp.size).trans (ih (s.freeSpan sp))

/-- Making a span free makes its bytes free, and leaves a free byte free. -/
theorem freeSpan_freeAfter {d a : Nat} {s : State} {sp : Span} (hd : d ≤ s.draws)
    (h : sp.has a = true ∨ s.mem.freeAfter d a) : (s.freeSpan sp).mem.freeAfter d a := by
  by_cases hin : sp.has a = true
  · obtain ⟨hlo, hhi⟩ := (Span.has_iff sp a).1 hin
    have hread := Memory.readByte_scramble_inside s.mem sp.base s.draws sp.size (a - sp.base) (by omega)
    rw [Nat.add_sub_cancel' hlo] at hread
    exact ⟨_, by omega, hread⟩
  · obtain ⟨d', hle, hread⟩ := h.resolve_left hin
    have hout : a < sp.base ∨ sp.base + sp.size ≤ a := by
      rw [Span.has_iff] at hin
      omega
    exact ⟨d', hle, (Memory.readByte_scramble_outside _ _ _ _ hout).trans hread⟩

/-- Making spans free, one after another, makes each of their bytes free. -/
theorem foldl_freeSpan_freeAfter {d a : Nat} (sps : List Span) {s : State} (hd : d ≤ s.draws)
    (h : inSpans sps a = true ∨ s.mem.freeAfter d a) : (sps.foldl State.freeSpan s).mem.freeAfter d a := by
  induction sps generalizing s with
  | nil => exact h.resolve_left nofun
  | cons sp sps ih =>
    have hd' : d ≤ (s.freeSpan sp).draws := hd.trans (Nat.le_add_right _ _)
    refine ih hd' ?_
    simp only [inSpans, List.any_cons, Bool.or_eq_true] at h
    rcases h with (hsp | hsps) | hfree
    · exact .inr (freeSpan_freeAfter hd (.inl hsp))
    · exact .inl hsps
    · exact .inr (freeSpan_freeAfter hd (.inr hfree))

/-- What the end of a marked command leaves free: its "out" regions and PEAK_* (R57, R148), by values drawn after the
first `d` draws. -/
def Spoiled (d : Nat) (rs : List Region) (t : State) : Prop :=
  (∀ a, inSpans (outSpans rs) a = true → t.mem.freeAfter d a) ∧
  (∀ j : Fin 8, ∃ d', d ≤ d' ∧ t.peakIn[j] = Config.freeWord d') ∧
  ∀ k : Fin 2, ∃ d', d ≤ d' ∧ t.peakOut[k] = Config.freeWord d'

theorem freeOut_freePeaks_spoiled (s : State) (rs : List Region) : Spoiled s.draws rs (s.freeOut rs).freePeaks := by
  have hdraws : s.draws ≤ (s.freeOut rs).draws := foldl_freeSpan_draws _ s
  refine ⟨fun a ha => foldl_freeSpan_freeAfter _ (Nat.le_refl _) (.inl ha), fun j => ?_, fun k => ?_⟩
  · exact ⟨(s.freeOut rs).draws + j, by omega, by simp [State.freePeaks]⟩
  · exact ⟨(s.freeOut rs).draws + 8 + k, by omega, by simp [State.freePeaks]⟩

theorem completeRun_spoiled {r : Run} (s : State) (hdirty : r.dirty = true) :
    Spoiled s.draws (s.runRegions r) (completeRun r s) := by
  have hdraws : (completionWrites r s).draws = s.draws := by rw [completionWrites_eq]
  unfold completeRun
  rw [hdirty, ← hdraws]
  exact freeOut_freePeaks_spoiled (completionWrites r s) _

theorem abortRun_spoiled {r : Run} (addr : Word) (s : State) (hdirty : r.dirty = true) :
    Spoiled s.draws (s.runRegions r) (abortRun addr r s) := by
  unfold abortRun
  rw [hdirty]
  exact freeOut_freePeaks_spoiled s _

end Sys2Proof.Machine

namespace Sys2Proof.Proofs

open Sys2Proof.Machine

/-- Settles O42: a touch marks the run (`touchIf_true`), frames keep the mark, and the completion or abort of a marked
command spoils what it wrote. -/
theorem hostTouchIsRecorded : Obligations.HostTouchIsRecorded := by
  refine ⟨fun s r addr v hrun => ⟨fun hin => ?_, fun hin => ?_, fun hout hunseen => ?_⟩,
    fun s r hrun hruns hdirty => ⟨fun hfate hlt => ?_, ?_⟩⟩
  · obtain ⟨hrun', hbreaches⟩ := hostStore_run s addr v
    rw [runHas_running hrun, hin] at hrun' hbreaches
    obtain ⟨hmarked, hrecorded⟩ := touchIf_true hrun
    exact ⟨_, _, rfl, hrun'.trans hmarked, rfl, hbreaches ▸ hrecorded⟩
  · obtain ⟨hrun', hbreaches⟩ := hostLoad_run s addr
    rw [runHas_running hrun, hin] at hrun' hbreaches
    obtain ⟨hmarked, hrecorded⟩ := touchIf_true hrun
    exact ⟨_, _, rfl, hrun'.trans hmarked, rfl, hbreaches ▸ hrecorded⟩
  · exact congrArg _ (hostLoad_ordered ((runHas_running hrun _ _).trans hout) hunseen)
  · obtain ⟨r', heq, hinstr, hframe, -, hdirty'⟩ := frameTurn_run r s hruns
    rw [engineTurn_of_frame hrun hfate hlt]
    exact ⟨r', by rw [heq], hdirty'.trans hdirty, hinstr, hframe⟩
  · rintro (⟨hfate, hle⟩ | ⟨addr, hfate⟩)
    · rw [engineTurn_of_completion hrun hfate hle]
      exact ⟨rfl, completeRun_spoiled s hdirty⟩
    · rw [engineTurn_of_busError hrun hfate]
      exact ⟨rfl, abortRun_spoiled addr s hdirty⟩

/-- Settles O43: the acquire leaves nothing unseen, so that the host's accesses race with nothing. -/
theorem statusReadAcquires : Obligations.StatusReadAcquires := by
  intro s hidle hdone
  have hacquire : (!s.busy && s.done) = true := by simp [State.busy, hidle, hdone]
  have hread := serve_read_status s
  rw [hacquire] at hread
  refine ⟨_, hread, rfl, fun addr => ?_, fun addr v =>
    ⟨_, congrArg _ (hostStore_acquired ?_ ?_ addr v), rfl, fun a => ?_⟩⟩
  · refine congrArg _ (hostLoad_acquired ?_ ?_ addr)
    exacts [hidle, rfl]
  · exact hidle
  · rfl
  · exact Memory.readByte_writeByte s.mem addr.toNat a v

end Sys2Proof.Proofs
end

section
/-! SUPPORT. A command and the contexts it does not name (R63, R109, R137): it does the same whatever they hold, and so
leaves them. -/

namespace Sys2Proof.Machine

/-! ### Other contexts -/

/-- The state with other values in its smoothing contexts. -/
def State.mapContexts (p : Vector StereoCtx 16 → Vector StereoCtx 16) (q : Vector MonoCtx 16 → Vector MonoCtx 16)
    (s : State) : State :=
  { s with ss := p s.ss, ms := q s.ms }

/-- A change of contexts that leaves context `ctx`, and commutes with writing it. -/
def SparesAt {α : Type} (ctx : BitVec 4) (p : Vector α 16 → Vector α 16) : Prop :=
  ∀ v, (p v)[ctx.toNat]'ctx.isLt = v[ctx.toNat]'ctx.isLt ∧
    ∀ x, p (v.set ctx.toNat x ctx.isLt) = (p v).set ctx.toNat x ctx.isLt

/-- Writing another context spares `ctx`. -/
theorem sparesAt_set {α : Type} {c ctx : BitVec 4} (h : c ≠ ctx) (x : α) :
    SparesAt ctx (fun v : Vector α 16 => v.set c.toNat x c.isLt) := by
  have hne : c.toNat ≠ ctx.toNat := fun e => h (BitVec.eq_of_toNat_eq e)
  exact fun v => ⟨Vector.getElem_set_ne c.isLt ctx.isLt hne, fun y => Vector.set_comm y x hne.symm⟩

/-- The change spares the context a command names, if it is a mixer. -/
def Spares (i : Instr) (p : Vector StereoCtx 16 → Vector StereoCtx 16) (q : Vector MonoCtx 16 → Vector MonoCtx 16) :
    Prop :=
  (∀ ctx fx, i = .smix ctx fx → SparesAt ctx p) ∧ ∀ ctx fx, i = .mmix ctx fx → SparesAt ctx q

theorem spares_smix {ctx : BitVec 4} {p : Vector StereoCtx 16 → Vector StereoCtx 16} (hp : SparesAt ctx p) (fx : Bool)
    (q : Vector MonoCtx 16 → Vector MonoCtx 16) : Spares (.smix ctx fx) p q :=
  ⟨by rintro _ _ ⟨⟩; exact hp, nofun⟩

theorem spares_mmix {ctx : BitVec 4} {q : Vector MonoCtx 16 → Vector MonoCtx 16} (hq : SparesAt ctx q) (fx : Bool)
    (p : Vector StereoCtx 16 → Vector StereoCtx 16) : Spares (.mmix ctx fx) p q :=
  ⟨nofun, by rintro _ _ ⟨⟩; exact hq⟩

section

variable {p : Vector StereoCtx 16 → Vector StereoCtx 16} {q : Vector MonoCtx 16 → Vector MonoCtx 16}

/-! ### What a command does commutes with the change -/

theorem smixFrame_mapContexts {ctx : BitVec 4} (hp : SparesAt ctx p) (fx : Bool) (r : Run) (s : State) :
    smixFrame ctx fx r (s.mapContexts p q) = (smixFrame ctx fx r s).mapContexts p q := by
  have hctx : (s.mapContexts p q).stereo ctx = s.stereo ctx := (hp s.ss).1
  have hcontribution : smixContribution (s.mapContexts p q) ctx = smixContribution s ctx := by
    funext i k side
    simp only [smixContribution, smixGain, hctx]
    rfl
  have hout : smixOut (s.mapContexts p q) ctx = smixOut s ctx := by
    funext i side
    simp only [smixOut, smixAcc, hcontribution, hctx]
    rfl
  simp only [smixFrame, smixMaxIn, smixMaxOut, smixAcc, hout, hcontribution]
  rfl

theorem mmixFrame_mapContexts {ctx : BitVec 4} (hq : SparesAt ctx q) (fx : Bool) (r : Run) (s : State) :
    mmixFrame ctx fx r (s.mapContexts p q) = (mmixFrame ctx fx r s).mapContexts p q := by
  have hctx : (s.mapContexts p q).mono ctx = s.mono ctx := (hq s.ms).1
  have hcontribution : mmixContribution (s.mapContexts p q) ctx = mmixContribution s ctx := by
    funext i k
    simp only [mmixContribution, hctx]
    rfl
  have hout : mmixOut (s.mapContexts p q) ctx = mmixOut s ctx := by
    funext i
    simp only [mmixOut, mmixAcc, hcontribution, hctx]
    rfl
  simp only [mmixFrame, mmixAcc, hout, hcontribution]
  rfl

theorem frameTurn_mapContexts {r : Run} (h : Spares r.instr p q) (s : State) :
    frameTurn r (s.mapContexts p q) = (frameTurn r s).mapContexts p q := by
  unfold frameTurn
  cases hi : r.instr with
  | smix ctx fx => exact smixFrame_mapContexts (h.1 ctx fx hi) fx r s
  | mmix ctx fx => exact mmixFrame_mapContexts (h.2 ctx fx hi) fx r s
  | _ => rfl

theorem completionWrites_mapContexts {r : Run} (h : Spares r.instr p q) (s : State) :
    completionWrites r (s.mapContexts p q) = (completionWrites r s).mapContexts p q := by
  unfold completionWrites
  cases hi : r.instr with
  | smix ctx fx =>
    have hset := (h.1 ctx fx hi s.ss).2 { inp := s.args.gin, out := s.args.gout }
    simp only [smixComplete, State.setStereo, State.mapContexts, hset]
  | mmix ctx fx =>
    have hset := (h.2 ctx fx hi s.ms).2
      { inp := #v[s.args.gin[0], s.args.gin[1], s.args.gin[2], s.args.gin[3]], out := s.args.gout[0] }
    simp only [mmixComplete, State.setMono, State.mapContexts, hset]
  | _ => rfl

theorem freeOut_mapContexts (s : State) (rs : List Region) :
    (s.mapContexts p q).freeOut rs = (s.freeOut rs).mapContexts p q := by
  unfold State.freeOut
  induction outSpans rs generalizing s with
  | nil => rfl
  | cons sp sps ih => exact ih (s.freeSpan sp)

theorem spoilIf_mapContexts (s : State) (dirty : Bool) (rs : List Region) :
    (s.mapContexts p q).spoilIf dirty rs = (s.spoilIf dirty rs).mapContexts p q := by
  cases dirty with
  | false => rfl
  | true => exact congrArg State.freePeaks (freeOut_mapContexts s rs)

theorem completeRun_mapContexts {r : Run} (h : Spares r.instr p q) (s : State) :
    completeRun r (s.mapContexts p q) = (completeRun r s).mapContexts p q := by
  unfold completeRun
  rw [completionWrites_mapContexts h, spoilIf_mapContexts]
  rfl

theorem abortRun_mapContexts (addr : Word) (r : Run) (s : State) :
    abortRun addr r (s.mapContexts p q) = (abortRun addr r s).mapContexts p q := by
  unfold abortRun
  rw [show (s.mapContexts p q).runRegions r = s.runRegions r from rfl, freeOut_mapContexts]
  cases r.dirty <;> rfl

theorem engineTurn_mapContexts {s : State} {r : Run} (hrun : s.run = some r) (h : Spares r.instr p q) :
    engineTurn (s.mapContexts p q) = (engineTurn s).mapContexts p q := by
  have hrun' : (s.mapContexts p q).run = some r := hrun
  cases hfate : r.fate with
  | noMargin => rw [engineTurn_of_stuck hrun (.inl hfate), engineTurn_of_stuck hrun' (.inl hfate)]
  | noResponse => rw [engineTurn_of_stuck hrun (.inr hfate), engineTurn_of_stuck hrun' (.inr hfate)]
  | busError addr =>
    rw [engineTurn_of_busError hrun hfate, engineTurn_of_busError hrun' hfate, abortRun_mapContexts]
  | completes =>
    rcases Nat.lt_or_ge r.frame s.args.n with hlt | hle
    · rw [engineTurn_of_frame hrun hfate hlt, engineTurn_of_frame hrun' hfate hlt, frameTurn_mapContexts h]
    · rw [engineTurn_of_completion hrun hfate hle, engineTurn_of_completion hrun' hfate hle, completeRun_mapContexts h]

theorem engineTurns_mapContexts {s : State} {r : Run} (hrun : s.run = some r) (hruns : r.instr.runs = true)
    (h : Spares r.instr p q) (k : Nat) : engineTurns k (s.mapContexts p q) = (engineTurns k s).mapContexts p q := by
  induction k generalizing s r with
  | zero => rfl
  | succ k ih =>
    rw [engineTurns_succ, engineTurns_succ, engineTurn_mapContexts hrun h]
    rcases engineTurn_run hrun hruns with hidle | ⟨r', hrun', hinstr⟩
    · have hidle' : ((engineTurn s).mapContexts p q).run = none := hidle
      rw [engineTurns_idle hidle, engineTurns_idle hidle']
    · exact ih hrun' (hinstr ▸ hruns) (hinstr ▸ h)

theorem noteIf_mapContexts (s : State) (cond : Bool) (b : Breach) :
    (s.mapContexts p q).noteIf cond b = (s.noteIf cond b).mapContexts p q := rfl

theorem startRun_mapContexts (i : Instr) (rs : List Region) (s : State) :
    (s.mapContexts p q).startRun i rs = (s.startRun i rs).mapContexts p q := by
  unfold State.startRun
  simp only [noteIf_mapContexts]
  rfl

/-- The acceptance of a command that runs writes no context. -/
theorem acceptance_mapContexts {i : Instr} (hruns : i.runs = true) (s : State) :
    acceptance i (s.mapContexts p q) = (acceptance i s).mapContexts p q := by
  cases i with
  | sinit | minit => cases hruns
  | _ => exact startRun_mapContexts _ _ s

/-- A command's checks look at no context. -/
theorem exec_mapContexts {i : Instr} {s t : State} (hruns : i.runs = true) (h : exec i s = .next t) :
    exec i (s.mapContexts p q) = .next (t.mapContexts p q) := by
  have hchecks : checksOf i (s.mapContexts p q) = checksOf i s := by cases i <;> rfl
  rw [exec_eq_submit] at h ⊢
  rcases submit_cases (checksOf i s) s (acceptance i) with ⟨hpass, hs⟩ | ⟨code, addr, hfail, hs⟩
  · rw [hs, Host.Outcome.next.injEq] at h
    rw [submit, hchecks, hpass, ← h]
    exact congrArg _ (acceptance_mapContexts hruns s)
  · rw [hs, Host.Outcome.next.injEq] at h
    rw [submit, hchecks, hfail, ← h]
    rfl

/-- A command does the same in a machine whose other contexts hold other values. -/
theorem exec_turns_mapContexts {i : Instr} {s t : State} (hruns : i.runs = true) (hidle : s.run = none)
    (hspares : Spares i p q) (h : exec i s = .next t) :
    exec i (s.mapContexts p q) = .next (t.mapContexts p q) ∧
    ∀ k, engineTurns k (t.mapContexts p q) = (engineTurns k t).mapContexts p q := by
  refine ⟨exec_mapContexts hruns h, fun k => ?_⟩
  rcases exec_run hidle h with hidle' | ⟨-, -, r, hrun, hinstr⟩
  · have hidle'' : (t.mapContexts p q).run = none := hidle'
    rw [engineTurns_idle hidle', engineTurns_idle hidle'']
  · exact engineTurns_mapContexts hrun (hinstr ▸ hruns) (hinstr ▸ hspares) k

/-- So it leaves them: what the change leaves as it is before the command, it leaves after it. -/
theorem engineTurns_fixed {i : Instr} {s t : State} (hruns : i.runs = true) (hidle : s.run = none)
    (hspares : Spares i p q) (h : exec i s = .next t) (hfixed : s.mapContexts p q = s) (k : Nat) :
    (engineTurns k t).mapContexts p q = engineTurns k t := by
  obtain ⟨hexec, hturns⟩ := exec_turns_mapContexts hruns hidle hspares h
  rw [hfixed, h] at hexec
  rw [← hturns k, ← Host.Outcome.next.inj hexec]

end

end Sys2Proof.Machine

namespace Sys2Proof.Proofs

open Sys2Proof.Machine

/-- Settles O49: a mixer commutes with any change of contexts that spares the one it names
(`exec_turns_mapContexts`). Where the change writes what a context already holds, this says that the mixer leaves it
(`engineTurns_fixed`). -/
theorem contextsAreIndependent : Obligations.ContextsAreIndependent := by
  intro ctx c d fx s t x y hc hidle
  refine ⟨fun h k => ?_, fun h k => ?_⟩
  · have hspares := fun x q => spares_smix (sparesAt_set hc x) fx q
    have hkept := engineTurns_fixed rfl hidle (hspares (s.stereo c) fun _ => s.ms) h
      (by simp [State.mapContexts, State.stereo]) k
    obtain ⟨hexec, hturns⟩ := exec_turns_mapContexts rfl hidle (hspares x fun v => v.set d.toNat y d.isLt) h
    refine ⟨?_, ?_, _, hexec, hturns k⟩
    · rw [← hkept]
      exact State.stereo_setStereo_same (engineTurns k t) c (s.stereo c)
    · rw [← hkept]
      rfl
  · have hspares := fun p y => spares_mmix (sparesAt_set hc y) fx p
    have hkept := engineTurns_fixed rfl hidle (hspares (fun _ => s.ss) (s.mono c)) h
      (by simp [State.mapContexts, State.mono]) k
    obtain ⟨hexec, hturns⟩ := exec_turns_mapContexts rfl hidle (hspares (fun v => v.set d.toNat x d.isLt) y) h
    refine ⟨?_, ?_, _, hexec, hturns k⟩
    · rw [← hkept]
      exact State.mono_setMono_same (engineTurns k t) c (s.mono c)
    · rw [← hkept]
      rfl

end Sys2Proof.Proofs
end

section
/-! SUPPORT. Command words by their fields (30_encoding.md R67 to R74): which words are some command's encoding, that the
rows of R70 select exactly these, what a rejected write of CMD does, and the statements about them. -/

namespace Sys2Proof

open Machine (toNat_append_eq_add)

/-! ### The fields of R68 -/

/-- A command word as a number. -/
theorem commandWord_toNat (ctx : BitVec 4) (fx : Bool) (opc : BitVec 8) :
    (commandWord ctx fx opc).toNat = ctx.toNat * 2 ^ 12 + fx.toNat * 2 ^ 8 + opc.toNat := by
  have hopc := toNat_append_eq_add (0#16 ++ ctx ++ 0#3 ++ BitVec.ofBool fx) opc
  have hfx := toNat_append_eq_add (0#16 ++ ctx ++ 0#3) (BitVec.ofBool fx)
  have hrsv0 := toNat_append_eq_add (0#16 ++ ctx) 0#3
  have hctx := toNat_append_eq_add 0#16 ctx
  rw [commandWord, hopc, hfx, hrsv0, hctx, BitVec.toNat_ofBool, BitVec.toNat_ofNat, BitVec.toNat_ofNat]
  omega

theorem toNat_fxField (w : Word) : (fxField w).toNat = w.toNat / 2 ^ 8 % 2 := by
  rw [fxField, BitVec.getLsbD, Nat.toNat_testBit]

theorem toNat_extractLsb'_eq_div_mod (w : Word) (start len : Nat) :
    (w.extractLsb' start len).toNat = w.toNat / 2 ^ start % 2 ^ len := by
  rw [BitVec.extractLsb'_toNat, Nat.shiftRight_eq_div_pow]

section

variable (ctx : BitVec 4) (fx : Bool) (opc : BitVec 8)

@[simp] theorem commandWord_rsv1 : (commandWord ctx fx opc).extractLsb' 16 16 = 0#16 := by
  have hfx := fx.toNat_lt
  apply BitVec.eq_of_toNat_eq
  rw [toNat_extractLsb'_eq_div_mod, commandWord_toNat, BitVec.toNat_ofNat]
  omega

@[simp] theorem commandWord_ctx : ctxField (commandWord ctx fx opc) = ctx := by
  have hfx := fx.toNat_lt
  apply BitVec.eq_of_toNat_eq
  rw [ctxField, toNat_extractLsb'_eq_div_mod, commandWord_toNat]
  omega

@[simp] theorem commandWord_rsv0 : (commandWord ctx fx opc).extractLsb' 9 3 = 0#3 := by
  have hfx := fx.toNat_lt
  apply BitVec.eq_of_toNat_eq
  rw [toNat_extractLsb'_eq_div_mod, commandWord_toNat, BitVec.toNat_ofNat]
  omega

@[simp] theorem commandWord_fx : fxField (commandWord ctx fx opc) = fx := by
  have hfx := fx.toNat_lt
  have hbit : (fxField (commandWord ctx fx opc)).toNat = fx.toNat := by
    rw [toNat_fxField, commandWord_toNat]
    omega
  cases fx <;> simpa using hbit

@[simp] theorem commandWord_opc : (commandWord ctx fx opc).extractLsb' 0 8 = opc := by
  apply BitVec.eq_of_toNat_eq
  rw [toNat_extractLsb'_eq_div_mod, commandWord_toNat]
  omega

end

/-- A word whose reserved bits are 0 is built from its own CTX, FX and OPC. -/
theorem eq_commandWord_of_reserved {w : Word} (hrsv1 : w.extractLsb' 16 16 = 0#16) (hrsv0 : w.extractLsb' 9 3 = 0#3) :
    w = commandWord (ctxField w) (fxField w) (w.extractLsb' 0 8) := by
  have hrsv1 := congrArg BitVec.toNat hrsv1
  have hrsv0 := congrArg BitVec.toNat hrsv0
  apply BitVec.eq_of_toNat_eq
  rw [commandWord_toNat, ctxField, toNat_fxField]
  simp only [toNat_extractLsb'_eq_div_mod, BitVec.toNat_ofNat] at *
  omega

/-! ### The rows of R70 -/

/-- A field that the mask covers is that field of the pattern. -/
theorem extractLsb'_of_and_eq {w m p : Word} {start len : Nat} (h : w &&& m = p)
    (hm : m.extractLsb' start len = BitVec.allOnes len) : w.extractLsb' start len = p.extractLsb' start len := by
  rw [← h, BitVec.extractLsb'_and, hm, BitVec.and_allOnes]

/-- FX is that of the pattern if it is in the mask. -/
theorem fxField_of_and_eq {w m p : Word} (h : w &&& m = p) (hm : fxField m = true) : fxField w = fxField p := by
  have hbit : fxField (w &&& m) = (fxField w && fxField m) := BitVec.getLsbD_and
  rw [← h, hbit, hm, Bool.and_true]

/-- A word matched by a mask over the reserved bits and OPC is built from its own CTX and FX. -/
theorem eq_commandWord_of_and_eq {w m : Word} {opc : BitVec 8} (h : w &&& m = commandWord 0 false opc)
    (hrsv1 : m.extractLsb' 16 16 = BitVec.allOnes 16) (hrsv0 : m.extractLsb' 9 3 = BitVec.allOnes 3)
    (hopc : m.extractLsb' 0 8 = BitVec.allOnes 8) : w = commandWord (ctxField w) (fxField w) opc := by
  have hw := eq_commandWord_of_reserved ((extractLsb'_of_and_eq h hrsv1).trans (commandWord_rsv1 0 false opc))
    ((extractLsb'_of_and_eq h hrsv0).trans (commandWord_rsv0 0 false opc))
  rwa [extractLsb'_of_and_eq h hopc, commandWord_opc] at hw

/-- A row that fixes all bits but CTX and FX. -/
theorem eq_commandWord_of_ctxFxRow {w : Word} {opc : BitVec 8} (h : w &&& 0xFFFF0EFF = commandWord 0 false opc) :
    w = commandWord (ctxField w) (fxField w) opc :=
  eq_commandWord_of_and_eq h rfl rfl rfl

/-- A row that fixes all bits but CTX. -/
theorem eq_commandWord_of_ctxRow {w : Word} {opc : BitVec 8} (h : w &&& 0xFFFF0FFF = commandWord 0 false opc) :
    w = commandWord (ctxField w) false opc := by
  have hw := eq_commandWord_of_and_eq h rfl rfl rfl
  rwa [fxField_of_and_eq h rfl, commandWord_fx] at hw

/-- A row of R70 selects only encodings of the command it builds. -/
theorem eq_encode_of_selects {r : OpcodeRow} {w : Word} (hr : r ∈ opcodeRows) (h : r.selects w = true) :
    w = encode (r.build w) := by
  have hmatch : w &&& r.mask = r.pattern := by simpa [OpcodeRow.selects] using h
  have hwhole (p : Word) (hp : w &&& BitVec.allOnes 32 = p) : w = p := by rwa [BitVec.and_allOnes] at hp
  simp only [opcodeRows, List.mem_cons, List.not_mem_nil, or_false] at hr
  rcases hr with rfl | rfl | rfl | rfl | rfl | rfl | rfl | rfl | rfl | rfl | rfl
  · exact eq_commandWord_of_ctxRow hmatch
  · exact eq_commandWord_of_ctxFxRow hmatch
  · exact eq_commandWord_of_ctxRow hmatch
  · exact eq_commandWord_of_ctxFxRow hmatch
  all_goals exact hwhole _ hmatch

/-! ### Decoding and encoding -/

theorem decode_encode (i : Instr) : decode (encode i) = some i := by
  cases i with
  | sinit ctx => exact Laws.RoundTrip.sinit ctx
  | smix ctx fx => exact Laws.RoundTrip.smix ctx fx
  | minit ctx => exact Laws.RoundTrip.minit ctx
  | mmix ctx fx => exact Laws.RoundTrip.mmix ctx fx
  | fxenc => exact Laws.RoundTrip.fxenc
  | fxdec => exact Laws.RoundTrip.fxdec
  | f2s16 => exact Laws.RoundTrip.f2s16
  | p2s16 => exact Laws.RoundTrip.p2s16
  | s162f => exact Laws.RoundTrip.s162f
  | ilv => exact Laws.RoundTrip.ilv
  | dilv => exact Laws.RoundTrip.dilv

theorem eq_encode_of_decode {w : Word} {i : Instr} (h : decode w = some i) : w = encode i := by
  unfold decode at h
  split at h
  · next r hfind =>
    cases h
    have hselects : r.selects w = true := List.find?_some (p := fun r : OpcodeRow => r.selects w) hfind
    exact eq_encode_of_selects (List.mem_of_find?_eq_some hfind) hselects
  · cases h

theorem decode_eq_some_iff (w : Word) (i : Instr) : decode w = some i ↔ w = encode i :=
  ⟨eq_encode_of_decode, fun h => h ▸ decode_encode i⟩

theorem decode_ne_none_iff (w : Word) : decode w ≠ none ↔ ∃ i, w = encode i := by
  simp only [Option.ne_none_iff_exists', decode_eq_some_iff]

/-! ### Legal words (R73) -/

/-- The words R73 leaves: an OPC of R69, the reserved bits 0, and FX and CTX only where they are used. -/
structure LegalFields (w : Word) : Prop where
  opc : w.extractLsb' 0 8 ∈ [0x01#8, 0x02#8, 0x03#8, 0x04#8, 0x10#8, 0x11#8, 0x20#8, 0x21#8, 0x22#8, 0x23#8, 0x24#8]
  rsv0 : w.extractLsb' 9 3 = 0
  rsv1 : w.extractLsb' 16 16 = 0
  fx : fxField w = true → w.extractLsb' 0 8 ≠ 0x02#8 → w.extractLsb' 0 8 = 0x04#8
  ctx : ctxField w ≠ 0 → w.extractLsb' 0 8 ∈ [0x01#8, 0x02#8, 0x03#8, 0x04#8]

theorem legalFields_encode (i : Instr) : LegalFields (encode i) := by
  cases i <;> constructor <;> simp [encode]

/-- A legal word is the encoding of the command that its OPC names. -/
theorem LegalFields.exists_encode {w : Word} (h : LegalFields w) : ∃ i, w = encode i := by
  obtain ⟨hopc, hrsv0, hrsv1, hfx, hctx⟩ := h
  have hw := eq_commandWord_of_reserved hrsv1 hrsv0
  have hnofx (h2 : w.extractLsb' 0 8 ≠ 0x02#8) (h4 : w.extractLsb' 0 8 ≠ 0x04#8) : fxField w = false := by
    simpa [h2, h4] using hfx
  have hnoctx (h : w.extractLsb' 0 8 ∉ [0x01#8, 0x02#8, 0x03#8, 0x04#8]) : ctxField w = 0 :=
    Decidable.not_not.1 fun hne => h (hctx hne)
  generalize ctxField w = ctx at *
  generalize fxField w = fx at *
  generalize w.extractLsb' 0 8 = opc at *
  subst hw
  simp only [List.mem_cons, List.not_mem_nil, or_false] at hopc
  rcases hopc with rfl | rfl | rfl | rfl | rfl | rfl | rfl | rfl | rfl | rfl | rfl
  · exact ⟨.sinit ctx, by rw [hnofx (by decide) (by decide)]; rfl⟩
  · exact ⟨.smix ctx fx, rfl⟩
  · exact ⟨.minit ctx, by rw [hnofx (by decide) (by decide)]; rfl⟩
  · exact ⟨.mmix ctx fx, rfl⟩
  all_goals rw [hnofx (by decide) (by decide), hnoctx (by decide)]
  · exact ⟨.fxenc, rfl⟩
  · exact ⟨.fxdec, rfl⟩
  · exact ⟨.f2s16, rfl⟩
  · exact ⟨.p2s16, rfl⟩
  · exact ⟨.s162f, rfl⟩
  · exact ⟨.ilv, rfl⟩
  · exact ⟨.dilv, rfl⟩

theorem decode_ne_none_iff_legalFields (w : Word) : decode w ≠ none ↔ LegalFields w := by
  rw [decode_ne_none_iff]
  exact ⟨fun ⟨i, hi⟩ => hi ▸ legalFields_encode i, LegalFields.exists_encode⟩

end Sys2Proof

namespace Sys2Proof.Machine

/-! ### Rejected writes of CMD -/

/-- A write of CMD while IDLE whose word is no command is rejected with ERR_BADOP (R73). -/
theorem writeCmd_of_decode_none {s : State} {w : Word} (hidle : s.run = none) (hw : decode w = none) :
    writeCmd s w = .next (s.acceptCmd.reject .badOp 0) := by
  simp [writeCmd, State.busy, hidle, hw]

/-- A command whose row is not present fails the first check (R74, R123). -/
theorem exec_of_not_present {i : Instr} {s : State} (h : (checksOf i s).present = false) :
    exec i s = .next (s.reject .badOp 0) := by
  have hfirst : (checksOf i s).firstError = some (.badOp, 0) := by simp [Checks.firstError, h]
  rw [exec_eq_submit, submit, hfirst]

/-- A write of CMD that is rejected with ERR_BADOP leaves that record, and changes nothing else of the block. -/
theorem serve_cmd_rejected {s : State} {w : Word}
    (h : writeCmd { s with reply := .ok } w = .next (State.reject (State.acceptCmd { s with reply := .ok }) .badOp 0)) :
    ∃ b, serve s (.write (windowAddr s.cfg 0x010) .word w) = .next
      { s with reply := .ok, done := true, err := true, errCode := .badOp, errAddr := 0, breaches := b } :=
  ⟨_, (serve_write_window s (o := 0x010) rfl w).trans h⟩

end Sys2Proof.Machine

namespace Sys2Proof.Proofs

open Sys2Proof.Machine

/-- Settles O2: a row of R70 selects only encodings of the command it builds, and each command's encoding decodes to it. -/
theorem decodeReadsExactlyTheEncodedWords : Obligations.DecodeReadsExactlyTheEncodedWords :=
  decode_eq_some_iff

/-- Settles O5: R73's reasons are the ways in which a word misses `LegalFields`, and the write of such a word reaches CMD,
which rejects it. -/
theorem illegalWordsAreRejected : Obligations.IllegalWordsAreRejected := by
  refine ⟨fun w => ?_, fun s w hidle hw => serve_cmd_rejected (writeCmd_of_decode_none hidle hw)⟩
  rw [← not_iff_not, ← ne_eq (decode w), decode_ne_none_iff_legalFields]
  simp only [not_or, not_and, ne_eq, Decidable.not_not]
  exact ⟨fun ⟨hopc, hrsv0, hrsv1, hfx, hctx⟩ => ⟨hopc, hrsv0, hrsv1, hfx, hctx⟩,
    fun ⟨hopc, hrsv0, hrsv1, hfx, hctx⟩ => ⟨hopc, hrsv0, hrsv1, hfx, hctx⟩⟩

/-- Settles O6: the two words decode, and the first check of both commands is the option. -/
theorem layoutWordsAreIllegalWithoutTheOption : Obligations.LayoutWordsAreIllegalWithoutTheOption := by
  rintro s w (rfl | rfl) hoption hidle
  · have hw := writeCmd_of_decode (s := { s with reply := .ok }) hidle Laws.RoundTrip.ilv
    exact serve_cmd_rejected (hw.trans (exec_of_not_present hoption))
  · have hw := writeCmd_of_decode (s := { s with reply := .ok }) hidle Laws.RoundTrip.dilv
    exact serve_cmd_rejected (hw.trans (exec_of_not_present hoption))

/-- Settles O1: each listed word is matched against the table of R70. -/
theorem exampleWordsDecodeAsListed : Obligations.ExampleWordsDecodeAsListed := by
  unfold Obligations.ExampleWordsDecodeAsListed
  decide

end Sys2Proof.Proofs
end

section
/-! SUPPORT. Binary32 encodings as numbers (40_datapath.md R79): a sign and the bits 30:0, which rise with the magnitude
they stand for. -/

namespace Sys2Proof.Machine

/-- Bits 30:0 of an encoding. -/
def magBits (b : Word) : Nat := b.toNat % 2 ^ 31

/-- What bits 30:0 stand for in units of 2^-149 (R79); on the bits of infinity and beyond, what they would stand for
if the format went on. -/
def magnitude (n : Nat) : Nat :=
  if n / 2 ^ 23 = 0 then n else (2 ^ 23 + n % 2 ^ 23) * 2 ^ (n / 2 ^ 23 - 1)

/-- A significand of at most 24 bits at weight 2^k, 24 of them unless k = 0. The significand 2^24 carries into the
exponent. -/
theorem magnitude_significand {k m : Nat} (hm : m ≤ 2 ^ 24) (hk : k = 0 ∨ 2 ^ 23 ≤ m) :
    magnitude (k * 2 ^ 23 + m) = m * 2 ^ k := by
  unfold magnitude
  rcases lt_trichotomy m (2 ^ 23) with hlt | rfl | hgt
  · obtain rfl : k = 0 := by omega
    rw [if_pos (by omega)]
    omega
  · rw [if_neg (by omega), show (k * 2 ^ 23 + 2 ^ 23) % 2 ^ 23 = 0 by omega,
      show (k * 2 ^ 23 + 2 ^ 23) / 2 ^ 23 - 1 = k by omega, Nat.add_zero]
  · rcases hm.lt_or_eq with hlt | rfl
    · rw [if_neg (by omega), show (k * 2 ^ 23 + m) / 2 ^ 23 - 1 = k by omega,
        show 2 ^ 23 + (k * 2 ^ 23 + m) % 2 ^ 23 = m by omega]
    · rw [if_neg (by omega), show (k * 2 ^ 23 + 2 ^ 24) / 2 ^ 23 - 1 = k + 1 by omega,
        show (k * 2 ^ 23 + 2 ^ 24) % 2 ^ 23 = 0 by omega]
      ring

/-- Every pattern of bits 30:0 is such a significand and weight. -/
theorem exists_significand (n : Nat) : ∃ k m, n = k * 2 ^ 23 + m ∧ m < 2 ^ 24 ∧ (k = 0 ∨ 2 ^ 23 ≤ m) :=
  ⟨n / 2 ^ 23 - 1, n - (n / 2 ^ 23 - 1) * 2 ^ 23, by omega, by omega, by omega⟩

theorem magnitude_strictMono : StrictMono magnitude := by
  refine strictMono_nat_of_lt_succ fun n => ?_
  obtain ⟨k, m, rfl, hm, hk⟩ := exists_significand n
  rw [Nat.add_assoc, magnitude_significand hm.le hk, magnitude_significand hm (by omega)]
  exact Nat.mul_lt_mul_of_pos_right (Nat.lt_succ_self m) (Nat.two_pow_pos k)

@[simp] theorem magnitude_zero : magnitude 0 = 0 := rfl

@[simp] theorem magnitude_eq_zero_iff (n : Nat) : magnitude n = 0 ↔ n = 0 :=
  magnitude_strictMono.injective.eq_iff' rfl

/-- The bits of infinity would stand for 2^277 units, that is, for 2^128. -/
theorem magnitude_infinity : magnitude 0x7F800000 = 2 ^ 24 * 2 ^ 253 :=
  magnitude_significand (k := 253) le_rfl (.inr (by norm_num))

/-- The largest finite magnitude is (2^24 - 1) * 2^253 units. -/
theorem magnitude_le_of_finite {n : Nat} (h : n < 0x7F800000) : magnitude n ≤ (2 ^ 24 - 1) * 2 ^ 253 := by
  have hmax : magnitude 0x7F7FFFFF = (2 ^ 24 - 1) * 2 ^ 253 :=
    magnitude_significand (k := 253) (m := 2 ^ 24 - 1) (by norm_num) (.inr (by norm_num))
  exact hmax ▸ magnitude_strictMono.monotone (Nat.le_pred_of_lt h)

/-- A significand of at most 24 bits at any weight has an encoding. -/
theorem exists_magnitude_eq {j e : Nat} (hj : j ≤ 2 ^ 24) : ∃ n, magnitude n = j * 2 ^ e := by
  induction e generalizing j with
  | zero => exact ⟨0 * 2 ^ 23 + j, magnitude_significand hj (.inl rfl)⟩
  | succ e ih =>
    by_cases hlow : j < 2 ^ 23
    · obtain ⟨n, hn⟩ := ih (j := 2 * j) (by omega)
      exact ⟨n, by rw [hn]; ring⟩
    · exact ⟨(e + 1) * 2 ^ 23 + j, magnitude_significand hj (.inr (by omega))⟩

/-- Up to weight 2^252 that encoding is finite. -/
theorem exists_finite_magnitude {j e : Nat} (hj : j ≤ 2 ^ 24) (he : e ≤ 252) :
    ∃ n, n < 0x7F800000 ∧ magnitude n = j * 2 ^ e := by
  obtain ⟨n, hn⟩ := exists_magnitude_eq (e := e) hj
  refine ⟨n, magnitude_strictMono.lt_iff_lt.1 ?_, hn⟩
  calc magnitude n = j * 2 ^ e := hn
    _ ≤ 2 ^ 24 * 2 ^ 252 := Nat.mul_le_mul hj (Nat.pow_le_pow_right (by norm_num) he)
    _ < magnitude 0x7F800000 := by rw [magnitude_infinity]; norm_num

/-! ### Reading and building an encoding -/

theorem toNat_eq_magBits (b : Word) : b.toNat = magBits b + if b.msb then 2 ^ 31 else 0 := by
  have hb := b.isLt
  rw [magBits, BitVec.msb_eq_decide]
  by_cases h : 2 ^ 31 ≤ b.toNat
  · rw [if_pos (decide_eq_true h)]
    omega
  · rw [if_neg (by simpa using h)]
    omega

/-- What an encoding stands for, by its sign and its bits 30:0 (R79). -/
theorem f32_eq (b : Word) :
    f32 b = if magBits b < 0x7F800000 then .fin b.msb (magnitude (magBits b))
      else if magBits b = 0x7F800000 then .inf b.msb else .nan := by
  have hexp : expField b = magBits b / 2 ^ 23 := by unfold expField magBits; omega
  have hfrac : fracField b = magBits b % 2 ^ 23 := by unfold fracField magBits; omega
  have hbits : magBits b < 2 ^ 31 := Nat.mod_lt _ (by norm_num)
  rw [f32, hexp, hfrac]
  rcases lt_trichotomy (magBits b) 0x7F800000 with h | h | h
  · rw [if_pos h, if_neg (by omega), magnitude]
    split_ifs with hsub
    · rw [Nat.mod_eq_of_lt (by omega)]
    · rfl
  · rw [if_pos (by omega), if_pos (by omega), if_neg (by omega), if_pos h]
  · rw [if_pos (by omega), if_neg (by omega), if_neg (by omega), if_neg (by omega)]

theorem f32_of_finite {b : Word} (h : magBits b < 0x7F800000) : f32 b = .fin b.msb (magnitude (magBits b)) := by
  rw [f32_eq, if_pos h]

theorem isFinite_iff (b : Word) : isFinite b = true ↔ magBits b < 0x7F800000 := by
  rw [isFinite, decide_eq_true_eq]
  unfold expField magBits
  omega

theorem valueOf_of_finite {b : Word} (h : magBits b < 0x7F800000) :
    valueOf b = signed b.msb (magnitude (magBits b)) := by
  rw [valueOf, f32_of_finite h]

section

variable {n : Nat} (neg : Bool) (hn : n < 2 ^ 31)
include hn

theorem toNat_pack : (pack neg n).toNat = n + if neg then 2 ^ 31 else 0 := by
  rw [pack, BitVec.toNat_ofNat]
  refine Nat.mod_eq_of_lt ?_
  split <;> omega

theorem magBits_pack : magBits (pack neg n) = n := by
  rw [magBits, toNat_pack neg hn]
  cases neg
  · exact Nat.mod_eq_of_lt hn
  · rw [if_pos rfl, Nat.add_mod_right, Nat.mod_eq_of_lt hn]

theorem msb_pack : (pack neg n).msb = neg := by
  rw [BitVec.msb_eq_decide, toNat_pack neg hn]
  cases neg
  · exact decide_eq_false (by rw [if_neg nofun]; omega)
  · exact decide_eq_true (by rw [if_pos rfl]; omega)

end

theorem pack_magBits (b : Word) : pack b.msb (magBits b) = b := by
  rw [pack, ← toNat_eq_magBits, BitVec.ofNat_toNat, BitVec.setWidth_eq]

theorem f32_pack (neg : Bool) {n : Nat} (h : n < 0x7F800000) : f32 (pack neg n) = .fin neg (magnitude n) := by
  have hn : n < 2 ^ 31 := by omega
  rw [f32_of_finite (by rwa [magBits_pack neg hn]), msb_pack neg hn, magBits_pack neg hn]

@[simp] theorem f32_infinity (neg : Bool) : f32 (infinity neg) = .inf neg := by
  cases neg <;> rfl

theorem valueOf_pack (neg : Bool) {n : Nat} (h : n < 0x7F800000) :
    valueOf (pack neg n) = signed neg (magnitude n) := by
  rw [valueOf, f32_pack neg h]

@[simp] theorem f32_zero : f32 0 = .fin false 0 := rfl

/-- Flipping the sign bit keeps bits 30:0 (R80). -/
theorem fneg_eq_pack (b : Word) : fneg b = pack (!b.msb) (magBits b) := by
  have hmsb : (fneg b).msb = !b.msb := by
    rw [fneg, BitVec.msb_xor]
    exact Bool.xor_true _
  have hbits : magBits (fneg b) = magBits b := by
    rw [magBits, fneg, BitVec.toNat_xor, Nat.xor_mod_two_pow]
    exact Nat.xor_zero _
  rw [← hmsb, ← hbits, pack_magBits]

end Sys2Proof.Machine
end

section
/-! SUPPORT. Rounding (40_datapath.md R80): `rneDiv` gives the nearest integer and `roundMag` the nearest magnitude, ties to
even, and infinity from the overflow threshold on. -/

namespace Sys2Proof.Machine

/-! ### The nearest integer -/

/-- `rneDiv` errs by at most half a unit, and a tie goes to an even integer. -/
theorem rneDiv_spec (num : Nat) {den : Nat} (hden : 0 < den) :
    2 * num ≤ 2 * (rneDiv num den * den) + den ∧ 2 * (rneDiv num den * den) ≤ 2 * num + den ∧
    (2 * num = 2 * (rneDiv num den * den) + den ∨ 2 * (rneDiv num den * den) = 2 * num + den →
      rneDiv num den % 2 = 0) := by
  have hdiv := Nat.div_add_mod' num den
  have hmod := Nat.mod_lt num hden
  have hup : (num / den + 1) * den = num / den * den + den := Nat.succ_mul _ _
  simp only [rneDiv]
  split_ifs with hlow hhigh
  · omega
  · omega
  · rcases Nat.mod_two_eq_zero_or_one (num / den) with hpar | hpar
    · rw [hpar, Nat.add_zero]
      omega
    · rw [hpar]
      omega

theorem le_rneDiv {num den a : Nat} (hden : 0 < den) (h : a * den ≤ num) : a ≤ rneDiv num den := by
  obtain ⟨hlow, -, -⟩ := rneDiv_spec num hden
  by_contra hlt
  have hmul : (rneDiv num den + 1) * den ≤ a * den := Nat.mul_le_mul_right den (by omega)
  rw [Nat.succ_mul] at hmul
  omega

theorem rneDiv_le {num den a : Nat} (hden : 0 < den) (h : num ≤ a * den) : rneDiv num den ≤ a := by
  obtain ⟨-, hhigh, -⟩ := rneDiv_spec num hden
  by_contra hlt
  have hmul : (a + 1) * den ≤ rneDiv num den * den := Nat.mul_le_mul_right den (by omega)
  rw [Nat.succ_mul] at hmul
  omega

/-- No integer is nearer than `rneDiv`, and if another is as near then `rneDiv` is even. -/
theorem rneDiv_nearest (num : Nat) {den : Nat} (hden : 0 < den) (j : Nat) :
    ((rneDiv num den * den : Nat) - num : Int).natAbs ≤ ((j * den : Nat) - num : Int).natAbs ∧
    (((rneDiv num den * den : Nat) - num : Int).natAbs = ((j * den : Nat) - num : Int).natAbs → j ≠ rneDiv num den →
      rneDiv num den % 2 = 0) := by
  obtain ⟨hlow, hhigh, heven⟩ := rneDiv_spec num hden
  rcases lt_trichotomy j (rneDiv num den) with hj | rfl | hj
  · have hmul : (j + 1) * den ≤ rneDiv num den * den := Nat.mul_le_mul_right den hj
    rw [Nat.succ_mul] at hmul
    omega
  · exact ⟨le_rfl, fun _ h => absurd rfl h⟩
  · have hmul : (rneDiv num den + 1) * den ≤ j * den := Nat.mul_le_mul_right den hj
    rw [Nat.succ_mul] at hmul
    omega

/-! ### The nearest magnitude -/

/-- The weight of the last kept bit of a rounded result. -/
def roundWeight (num den : Nat) : Nat := Nat.log2 (num / den) - 23

/-- The significand of a rounded result. -/
def roundSig (num den : Nat) : Nat := rneDiv num (den * 2 ^ roundWeight num den)

theorem roundMag_eq (num den : Nat) :
    roundMag num den = min (roundWeight num den * 2 ^ 23 + roundSig num den) 0x7F800000 := rfl

theorem roundMag_le (num den : Nat) : roundMag num den ≤ 0x7F800000 := Nat.min_le_right _ _

/-- A magnitude is a multiple of the last kept bit, or it lies below the 24-bit quotients of that weight. -/
theorem multiple_or_lt_of_weight (k b : Nat) :
    (∃ j, magnitude b = j * 2 ^ k) ∨ (k ≠ 0 ∧ magnitude b < 2 ^ 23 * 2 ^ k) := by
  obtain ⟨k', m, rfl, hm, hk'⟩ := exists_significand b
  rw [magnitude_significand hm.le hk']
  rcases Nat.lt_or_ge k' k with hlt | hge
  · refine .inr ⟨by omega, ?_⟩
    calc m * 2 ^ k' < 2 ^ 24 * 2 ^ k' := Nat.mul_lt_mul_of_pos_right hm (Nat.two_pow_pos k')
      _ = 2 ^ 23 * 2 ^ (k' + 1) := by ring
      _ ≤ 2 ^ 23 * 2 ^ k := Nat.mul_le_mul_left _ (Nat.pow_le_pow_right (by norm_num) hlt)
  · exact .inl ⟨m * 2 ^ (k' - k), by rw [Nat.mul_assoc, ← Nat.pow_add, Nat.sub_add_cancel hge]⟩

section

variable (num : Nat) {den : Nat} (hden : 0 < den)
include hden

theorem weighted_pos : 0 < den * 2 ^ roundWeight num den := Nat.mul_pos hden (Nat.two_pow_pos _)

/-- The exact quotient is below 2^24 units of the weight of the last kept bit. -/
theorem lt_of_roundWeight : num < 2 ^ 24 * (den * 2 ^ roundWeight num den) := by
  have hlog : num / den < 2 ^ (Nat.log2 (num / den) + 1) := Nat.lt_log2_self
  have hle : 2 ^ (Nat.log2 (num / den) + 1) ≤ 2 ^ (24 + roundWeight num den) :=
    Nat.pow_le_pow_right (by norm_num) (by unfold roundWeight; omega)
  calc num < 2 ^ (24 + roundWeight num den) * den := (Nat.div_lt_iff_lt_mul hden).1 (hlog.trans_le hle)
    _ = 2 ^ 24 * (den * 2 ^ roundWeight num den) := by ring

/-- A weight above that of the subnormals keeps all 24 bits of the quotient. -/
theorem le_of_roundWeight (hk : roundWeight num den ≠ 0) : 2 ^ 23 * (den * 2 ^ roundWeight num den) ≤ num := by
  have hlog : 24 ≤ Nat.log2 (num / den) := by unfold roundWeight at hk; omega
  have hquot : num / den ≠ 0 := fun h => absurd (h ▸ hlog) (by decide)
  have hle : 2 ^ (23 + roundWeight num den) ≤ num / den := by
    rw [roundWeight, Nat.add_sub_cancel' (by omega)]
    exact Nat.log2_self_le hquot
  calc 2 ^ 23 * (den * 2 ^ roundWeight num den) = 2 ^ (23 + roundWeight num den) * den := by ring
    _ ≤ num := (Nat.le_div_iff_mul_le hden).1 hle

theorem roundSig_le : roundSig num den ≤ 2 ^ 24 :=
  rneDiv_le (weighted_pos num hden) (lt_of_roundWeight num hden).le

theorem le_roundSig : roundWeight num den = 0 ∨ 2 ^ 23 ≤ roundSig num den :=
  or_iff_not_imp_left.2 fun hk => le_rneDiv (weighted_pos num hden) (le_of_roundWeight num hden hk)

/-- The magnitude of the rounded result before overflow. -/
theorem magnitude_unclamped :
    magnitude (roundWeight num den * 2 ^ 23 + roundSig num den) = roundSig num den * 2 ^ roundWeight num den :=
  magnitude_significand (roundSig_le num hden) (le_roundSig num hden)

/-- The significand is that of a nearest multiple of the last kept bit. -/
theorem roundSig_spec :
    2 * num ≤ 2 * (roundSig num den * (den * 2 ^ roundWeight num den)) + den * 2 ^ roundWeight num den ∧
    2 * (roundSig num den * (den * 2 ^ roundWeight num den)) ≤ 2 * num + den * 2 ^ roundWeight num den ∧
    (2 * num = 2 * (roundSig num den * (den * 2 ^ roundWeight num den)) + den * 2 ^ roundWeight num den ∨
      2 * (roundSig num den * (den * 2 ^ roundWeight num den)) = 2 * num + den * 2 ^ roundWeight num den →
      roundSig num den % 2 = 0) :=
  rneDiv_spec num (weighted_pos num hden)

/-- Infinity from half a unit above the largest finite value on (R80): at weight 2^253 the tie between the significand
2^24 - 1, which is odd, and infinity goes to infinity. -/
theorem roundMag_eq_infinity_iff : roundMag num den = 0x7F800000 ↔ (2 ^ 25 - 1) * 2 ^ 252 * den ≤ num := by
  have hlt := lt_of_roundWeight num hden
  have hle := le_of_roundWeight num hden
  have hsig := roundSig_le num hden
  have hsig' := le_roundSig num hden
  obtain ⟨hlow, hhigh, heven⟩ := roundSig_spec num hden
  rw [roundMag_eq]
  generalize roundSig num den = m at *
  generalize roundWeight num den = k at *
  rcases lt_trichotomy k 253 with hk | rfl | hk
  · have hpow : den * 2 ^ k ≤ den * 2 ^ 252 := Nat.mul_le_mul_left den (Nat.pow_le_pow_right (by norm_num) (by omega))
    have hmul : m * (den * 2 ^ k) ≤ 2 ^ 24 * (den * 2 ^ k) := Nat.mul_le_mul_right _ hsig
    omega
  · rcases (by omega : m ≤ 2 ^ 24 - 2 ∨ m = 2 ^ 24 - 1 ∨ m = 2 ^ 24) with hm | rfl | rfl
    · have hmul : m * (den * 2 ^ 253) ≤ (2 ^ 24 - 2) * (den * 2 ^ 253) := Nat.mul_le_mul_right _ hm
      omega
    · omega
    · omega
  · have hpow : den * 2 ^ 254 ≤ den * 2 ^ k := Nat.mul_le_mul_left den (Nat.pow_le_pow_right (by norm_num) hk)
    have hnum := hle (by omega)
    omega

theorem roundMag_lt (h : num < (2 ^ 25 - 1) * 2 ^ 252 * den) : roundMag num den < 0x7F800000 :=
  lt_of_le_of_ne (roundMag_le num den) fun heq => absurd ((roundMag_eq_infinity_iff num hden).1 heq) (by omega)

/-- The magnitude of a finite rounded result. -/
theorem magnitude_roundMag (hfin : roundMag num den < 0x7F800000) :
    roundMag num den = roundWeight num den * 2 ^ 23 + roundSig num den ∧
    magnitude (roundMag num den) = roundSig num den * 2 ^ roundWeight num den := by
  have hbits : roundMag num den = roundWeight num den * 2 ^ 23 + roundSig num den := by
    rw [roundMag_eq] at hfin ⊢
    omega
  exact ⟨hbits, by rw [hbits, magnitude_unclamped num hden]⟩

/-- No magnitude is nearer than the rounded one, and if another is as near then the rounded one is even (R80). -/
theorem roundMag_nearest (hfin : roundMag num den < 0x7F800000) (b : Nat) :
    ((magnitude (roundMag num den) : Int) * den - num).natAbs ≤ ((magnitude b : Int) * den - num).natAbs ∧
    (((magnitude (roundMag num den) : Int) * den - num).natAbs = ((magnitude b : Int) * den - num).natAbs →
      b ≠ roundMag num den → roundMag num den % 2 = 0) := by
  obtain ⟨hbits, hmag⟩ := magnitude_roundMag num hden hfin
  have hscale (j : Nat) :
      ((j * 2 ^ roundWeight num den : Nat) : Int) * den = (j * (den * 2 ^ roundWeight num den) : Nat) := by
    push_cast
    ring
  have hpar : roundMag num den % 2 = roundSig num den % 2 := by omega
  rcases multiple_or_lt_of_weight (roundWeight num den) b with ⟨j, hj⟩ | ⟨hk, hlt⟩
  · obtain ⟨hle, htie⟩ := rneDiv_nearest num (weighted_pos num hden) j
    rw [hmag, hj, hscale, hscale, hpar]
    refine ⟨hle, fun heq hne => htie heq ?_⟩
    rintro rfl
    exact hne (magnitude_strictMono.injective (hj.trans hmag.symm))
  · obtain ⟨hle, -⟩ := rneDiv_nearest num (weighted_pos num hden) (2 ^ 23)
    have hnum := le_of_roundWeight num hden hk
    have hfar : magnitude b * den < 2 ^ 23 * (den * 2 ^ roundWeight num den) := by
      calc magnitude b * den < 2 ^ 23 * 2 ^ roundWeight num den * den := Nat.mul_lt_mul_of_pos_right hlt hden
        _ = _ := by ring
    rw [hmag, hscale, roundSig]
    omega

/-- A quotient that some finite magnitude is exactly is rounded to it. -/
theorem roundMag_exact {n : Nat} (hn : n < 0x7F800000) (hnum : magnitude n * den = num) : roundMag num den = n := by
  subst hnum
  have hmax := Nat.mul_le_mul_right den (magnitude_le_of_finite hn)
  obtain ⟨hnear, -⟩ := roundMag_nearest _ hden (roundMag_lt (magnitude n * den) hden (by omega)) n
  have hexact : magnitude (roundMag (magnitude n * den) den) * den = magnitude n * den := by
    zify
    push_cast at hnear
    omega
  exact magnitude_strictMono.injective (Nat.eq_of_mul_eq_mul_right hden hexact)

/-- Rounding adds at most 2^-24 of the exact quotient, or half a unit where the result is subnormal. -/
theorem magnitude_roundMag_le : 2 ^ 24 * magnitude (roundMag num den) * den ≤ (2 ^ 24 + 1) * num + 2 ^ 23 * den := by
  obtain ⟨-, hhigh, -⟩ := roundSig_spec num hden
  have hclamp : magnitude (roundMag num den) * den ≤ roundSig num den * (den * 2 ^ roundWeight num den) := by
    calc magnitude (roundMag num den) * den ≤ roundSig num den * 2 ^ roundWeight num den * den := by
          rw [← magnitude_unclamped num hden]
          exact Nat.mul_le_mul_right den (magnitude_strictMono.monotone (Nat.min_le_left _ _))
      _ = roundSig num den * (den * 2 ^ roundWeight num den) := by ring
  rw [Nat.mul_assoc]
  by_cases hk : roundWeight num den = 0
  · rw [hk, Nat.pow_zero, Nat.mul_one] at hhigh hclamp
    omega
  · have hnum := le_of_roundWeight num hden hk
    omega

/-- Only the exact quotients below half a unit are rounded to 0. -/
theorem roundMag_ne_zero (h : den ≤ num) : roundMag num den ≠ 0 := by
  intro hzero
  have hone : magnitude 1 = 1 := rfl
  obtain ⟨hnear, -⟩ := roundMag_nearest num hden (by omega) 1
  rw [hzero, magnitude_zero, hone] at hnear
  omega

@[simp] theorem roundMag_zero : roundMag 0 den = 0 := roundMag_exact 0 hden (by norm_num) (Nat.zero_mul den)

end

end Sys2Proof.Machine
end

section
/-! SUPPORT. The arithmetic of 40_datapath.md R80 and R81 by the kinds of its operands: what each operation gives, that
its finite results are rounded once, that its NaNs are canonical, and the statements about it. -/

namespace Sys2Proof.Machine

/-! ### A rounded magnitude with its sign -/

theorem f32_pack_roundMag_infinity (neg : Bool) {num den : Nat} (h : roundMag num den = 0x7F800000) :
    f32 (pack neg (roundMag num den)) = .inf neg := by
  rw [h]
  exact f32_infinity neg

theorem isNaN_pack (neg : Bool) {n : Nat} (h : n ≤ 0x7F800000) : isNaN (pack neg n) = false := by
  rcases h.lt_or_eq with hfin | rfl
  · rw [isNaN, f32_pack neg hfin]
    rfl
  · rw [isNaN, ← infinity, f32_infinity]
    rfl

@[simp] theorem signed_false (m : Nat) : signed false m = m := rfl

@[simp] theorem signed_true (m : Nat) : signed true m = -m := rfl

theorem natAbs_signed_sub (neg : Bool) (v num den : Nat) :
    (signed neg v * den - signed neg num).natAbs = ((v : Int) * den - num).natAbs := by
  cases neg
  · rfl
  · rw [signed_true, signed_true, Int.neg_mul]
    omega

theorem natAbs_signed_not_sub (neg : Bool) (v num den : Nat) :
    (signed (!neg) v * den - signed neg num).natAbs = v * den + num := by
  cases neg
  · rw [Bool.not_false, signed_true, signed_false, Int.neg_mul]
    omega
  · rw [Bool.not_true, signed_true, signed_false]
    omega

/-- `roundMag` with a sign is the correctly rounded value. A value of the other sign is further away than 0 is. -/
theorem roundsTo_pack (neg : Bool) (num : Nat) {den : Nat} (hden : 0 < den) :
    RoundsTo neg num den (pack neg (roundMag num den)) := by
  have hle := roundMag_le num den
  have hbits : roundMag num den < 2 ^ 31 := by omega
  refine ⟨msb_pack neg hbits, ?_⟩
  split_ifs with hover
  · exact f32_pack_roundMag_infinity neg ((roundMag_eq_infinity_iff num hden).2 hover)
  have hfin : roundMag num den < 0x7F800000 := roundMag_lt num hden (by omega)
  refine ⟨(isFinite_iff _).2 (by rwa [magBits_pack neg hbits]), fun b hb => ?_⟩
  have hbfin := (isFinite_iff b).1 hb
  have hpar : (pack neg (roundMag num den)).toNat % 2 = roundMag num den % 2 := by
    rw [toNat_pack neg hbits]
    split <;> omega
  rw [valueOf_pack neg hfin, valueOf_of_finite hbfin, natAbs_signed_sub, hpar]
  by_cases hsign : b.msb = neg
  · obtain ⟨hnear, htie⟩ := roundMag_nearest num hden hfin (magBits b)
    rw [hsign, natAbs_signed_sub]
    exact ⟨hnear, fun heq hne => htie heq fun h => hne (by rw [h])⟩
  · obtain ⟨hnear, htie⟩ := roundMag_nearest num hden hfin 0
    rw [Bool.eq_not.2 hsign, natAbs_signed_not_sub]
    rw [magnitude_zero] at hnear htie
    refine ⟨by omega, fun heq hne => htie (by omega) fun hzero => hne ?_⟩
    have hb0 : magnitude (magBits b) * den = 0 := by
      rw [← hzero, magnitude_zero] at heq
      omega
    rw [(Nat.mul_eq_zero.1 hb0).resolve_right hden.ne', ← hzero, magnitude_zero]
    cases neg <;> rfl

/-! ### The operations by the kinds of their operands -/

theorem isNaN_iff (b : Word) : isNaN b = true ↔ f32 b = .nan := by
  rw [isNaN, beq_iff_eq]

/-- The value of `-b`. -/
def FVal.neg : FVal → FVal
  | .nan => .nan
  | .inf s => .inf (!s)
  | .fin s x => .fin (!s) x

theorem f32_fneg (b : Word) : f32 (fneg b) = (f32 b).neg := by
  have hbits : magBits b < 2 ^ 31 := Nat.mod_lt _ (by norm_num)
  rw [fneg_eq_pack, f32_eq, magBits_pack _ hbits, msb_pack _ hbits, f32_eq b]
  split_ifs <;> rfl

section

variable {a b : Word} {p q : Bool} {x y : Nat}

theorem fadd_fin (ha : f32 a = .fin p x) (hb : f32 b = .fin q y) :
    fadd a b = if signed p x + signed q y = 0 then pack (p && q) 0
      else pack (decide (signed p x + signed q y < 0)) (roundMag (signed p x + signed q y).natAbs 1) := by
  simp only [fadd, ha, hb]

theorem fadd_inf_fin (ha : f32 a = .inf p) (hb : f32 b = .fin q y) : fadd a b = infinity p := by
  simp only [fadd, ha, hb]

theorem fadd_fin_inf (ha : f32 a = .fin p x) (hb : f32 b = .inf q) : fadd a b = infinity q := by
  simp only [fadd, ha, hb]

theorem fadd_inf_inf (ha : f32 a = .inf p) (hb : f32 b = .inf q) :
    fadd a b = if p = q then infinity p else canonNaN := by
  simp only [fadd, ha, hb]

theorem fadd_nan (h : f32 a = .nan ∨ f32 b = .nan) : fadd a b = canonNaN := by
  rcases h with ha | hb
  · simp only [fadd, ha]
  · cases ha : f32 a <;> simp only [fadd, ha, hb]

theorem fmul_fin (ha : f32 a = .fin p x) (hb : f32 b = .fin q y) :
    fmul a b = pack (p != q) (roundMag (x * y) (2 ^ 149)) := by
  simp only [fmul, ha, hb]

theorem fmul_inf_fin (ha : f32 a = .inf p) (hb : f32 b = .fin q y) :
    fmul a b = if y = 0 then canonNaN else infinity (p != q) := by
  simp only [fmul, ha, hb]

theorem fmul_fin_inf (ha : f32 a = .fin p x) (hb : f32 b = .inf q) :
    fmul a b = if x = 0 then canonNaN else infinity (p != q) := by
  simp only [fmul, ha, hb]

theorem fmul_inf_inf (ha : f32 a = .inf p) (hb : f32 b = .inf q) : fmul a b = infinity (p != q) := by
  simp only [fmul, ha, hb]

theorem fmul_nan (h : f32 a = .nan ∨ f32 b = .nan) : fmul a b = canonNaN := by
  rcases h with ha | hb
  · simp only [fmul, ha]
  · cases ha : f32 a <;> simp only [fmul, ha, hb]

theorem fdiv_fin (ha : f32 a = .fin p x) (hb : f32 b = .fin q y) (hy : y ≠ 0) :
    fdiv a b = pack (p != q) (roundMag (x * 2 ^ 149) y) := by
  simp only [fdiv, ha, hb, if_neg hy]

theorem fdiv_fin_zero (ha : f32 a = .fin p x) (hb : f32 b = .fin q 0) :
    fdiv a b = if x = 0 then canonNaN else infinity (p != q) := by
  simp only [fdiv, ha, hb, if_true]

theorem fdiv_inf_fin (ha : f32 a = .inf p) (hb : f32 b = .fin q y) : fdiv a b = infinity (p != q) := by
  simp only [fdiv, ha, hb]

theorem fdiv_fin_inf (ha : f32 a = .fin p x) (hb : f32 b = .inf q) : fdiv a b = pack (p != q) 0 := by
  simp only [fdiv, ha, hb]

theorem fdiv_inf_inf (ha : f32 a = .inf p) (hb : f32 b = .inf q) : fdiv a b = canonNaN := by
  simp only [fdiv, ha, hb]

theorem fdiv_nan (h : f32 a = .nan ∨ f32 b = .nan) : fdiv a b = canonNaN := by
  rcases h with ha | hb
  · simp only [fdiv, ha]
  · cases ha : f32 a <;> simp only [fdiv, ha, hb]

/-! ### Sums and differences of finite values -/

theorem fadd_roundsTo (ha : f32 a = .fin p x) (hb : f32 b = .fin q y) (hz : signed p x + signed q y ≠ 0) :
    RoundsTo (decide (signed p x + signed q y < 0)) (signed p x + signed q y).natAbs 1 (fadd a b) := by
  rw [fadd_fin ha hb, if_neg hz]
  exact roundsTo_pack _ _ Nat.one_pos

/-- An exact zero sum of opposite-signed operands is +0.0 (R80). -/
theorem fadd_cancel (ha : f32 a = .fin p x) (hb : f32 b = .fin q y) (hz : signed p x + signed q y = 0) (hpq : p ≠ q) :
    fadd a b = 0 := by
  rw [fadd_fin ha hb, if_pos hz, Bool.and_eq_false_imp.2 fun hp => by simpa [hp] using hpq.symm]
  rfl

theorem signed_not (s : Bool) (m : Nat) : signed (!s) m = -signed s m := by
  cases s
  · rfl
  · exact (Int.neg_neg _).symm

theorem f32_fneg_fin (hb : f32 b = .fin q y) : f32 (fneg b) = .fin (!q) y := by
  rw [f32_fneg, hb]
  rfl

theorem f32_fneg_inf (hb : f32 b = .inf q) : f32 (fneg b) = .inf (!q) := by
  rw [f32_fneg, hb]
  rfl

theorem fsub_roundsTo (ha : f32 a = .fin p x) (hb : f32 b = .fin q y) (hz : signed p x - signed q y ≠ 0) :
    RoundsTo (decide (signed p x - signed q y < 0)) (signed p x - signed q y).natAbs 1 (fsub a b) := by
  have hdiff : signed p x + signed (!q) y = signed p x - signed q y := by rw [signed_not]; rfl
  rw [← hdiff] at hz ⊢
  exact fadd_roundsTo ha (f32_fneg_fin hb) hz

theorem fsub_cancel (ha : f32 a = .fin p x) (hb : f32 b = .fin q y) (hz : signed p x - signed q y = 0) (hpq : p = q) :
    fsub a b = 0 :=
  fadd_cancel ha (f32_fneg_fin hb) (by rw [signed_not]; exact hz) (by simp [hpq])

theorem fsub_nan (h : f32 a = .nan ∨ f32 b = .nan) : fsub a b = canonNaN :=
  fadd_nan (h.imp_right fun hb => by rw [f32_fneg, hb]; rfl)

end

/-! ### Canonical NaNs (R81) -/

/-- Not a NaN, or the canonical one. -/
def CanonicalNaN (r : Word) : Prop := isNaN r = true → r = canonNaN

theorem canonicalNaN_canonNaN : CanonicalNaN canonNaN := fun _ => rfl

theorem canonicalNaN_of_isNaN_false {r : Word} (h : isNaN r = false) : CanonicalNaN r := fun hnan => by
  simp [h] at hnan

theorem canonicalNaN_pack (neg : Bool) {n : Nat} (h : n ≤ 0x7F800000) : CanonicalNaN (pack neg n) :=
  canonicalNaN_of_isNaN_false (isNaN_pack neg h)

theorem canonicalNaN_roundMag (neg : Bool) (num den : Nat) : CanonicalNaN (pack neg (roundMag num den)) :=
  canonicalNaN_pack neg (roundMag_le num den)

theorem canonicalNaN_infinity (neg : Bool) : CanonicalNaN (infinity neg) := canonicalNaN_pack neg le_rfl

theorem canonicalNaN_zero (neg : Bool) : CanonicalNaN (pack neg 0) := canonicalNaN_pack neg (by norm_num)

theorem canonicalNaN_ite {c : Prop} [Decidable c] {r r' : Word} (h : CanonicalNaN r) (h' : CanonicalNaN r') :
    CanonicalNaN (if c then r else r') := by
  split
  · exact h
  · exact h'

theorem fadd_canonicalNaN (a b : Word) : CanonicalNaN (fadd a b) := by
  cases ha : f32 a with
  | nan => exact fadd_nan (.inl ha) ▸ canonicalNaN_canonNaN
  | inf p => cases hb : f32 b with
    | nan => exact fadd_nan (.inr hb) ▸ canonicalNaN_canonNaN
    | inf q => exact fadd_inf_inf ha hb ▸ canonicalNaN_ite (canonicalNaN_infinity p) canonicalNaN_canonNaN
    | fin q y => exact fadd_inf_fin ha hb ▸ canonicalNaN_infinity p
  | fin p x => cases hb : f32 b with
    | nan => exact fadd_nan (.inr hb) ▸ canonicalNaN_canonNaN
    | inf q => exact fadd_fin_inf ha hb ▸ canonicalNaN_infinity q
    | fin q y => exact fadd_fin ha hb ▸ canonicalNaN_ite (canonicalNaN_zero _) (canonicalNaN_roundMag _ _ _)

theorem fmul_canonicalNaN (a b : Word) : CanonicalNaN (fmul a b) := by
  cases ha : f32 a with
  | nan => exact fmul_nan (.inl ha) ▸ canonicalNaN_canonNaN
  | inf p => cases hb : f32 b with
    | nan => exact fmul_nan (.inr hb) ▸ canonicalNaN_canonNaN
    | inf q => exact fmul_inf_inf ha hb ▸ canonicalNaN_infinity _
    | fin q y => exact fmul_inf_fin ha hb ▸ canonicalNaN_ite canonicalNaN_canonNaN (canonicalNaN_infinity _)
  | fin p x => cases hb : f32 b with
    | nan => exact fmul_nan (.inr hb) ▸ canonicalNaN_canonNaN
    | inf q => exact fmul_fin_inf ha hb ▸ canonicalNaN_ite canonicalNaN_canonNaN (canonicalNaN_infinity _)
    | fin q y => exact fmul_fin ha hb ▸ canonicalNaN_roundMag _ _ _

theorem fdiv_canonicalNaN (a b : Word) : CanonicalNaN (fdiv a b) := by
  cases ha : f32 a with
  | nan => exact fdiv_nan (.inl ha) ▸ canonicalNaN_canonNaN
  | inf p => cases hb : f32 b with
    | nan => exact fdiv_nan (.inr hb) ▸ canonicalNaN_canonNaN
    | inf q => exact fdiv_inf_inf ha hb ▸ canonicalNaN_canonNaN
    | fin q y => exact fdiv_inf_fin ha hb ▸ canonicalNaN_infinity _
  | fin p x => cases hb : f32 b with
    | nan => exact fdiv_nan (.inr hb) ▸ canonicalNaN_canonNaN
    | inf q => exact fdiv_fin_inf ha hb ▸ canonicalNaN_zero _
    | fin q y =>
      by_cases hy : y = 0
      · subst hy
        exact fdiv_fin_zero ha hb ▸ canonicalNaN_ite canonicalNaN_canonNaN (canonicalNaN_infinity _)
      · exact fdiv_fin ha hb hy ▸ canonicalNaN_roundMag _ _ _

theorem b32_canonicalNaN (o : Word) : CanonicalNaN (b32 o) := by
  unfold b32
  split
  · exact canonicalNaN_canonNaN
  · next h => exact canonicalNaN_of_isNaN_false (by simpa using h)

theorem b32_of_not_nan {r : Word} (h : isNaN r = false) : b32 r = r := by
  rw [b32, h]
  rfl

/-- A fixed-point value decodes to no NaN (R91, R94). -/
theorem isNaN_fromFixed (w frac : Nat) (q : BitVec w) : isNaN (fromFixed w frac q) = false :=
  isNaN_pack _ (roundMag_le _ _)

end Sys2Proof.Machine

namespace Sys2Proof.Proofs

open Sys2Proof.Machine

/-- Settles O51: finite operands give `roundMag` of the exact result with its sign (`roundsTo_pack`); every other pair of
operands is a case of the operation. -/
theorem roundingIsToNearestEven : Obligations.RoundingIsToNearestEven := by
  refine ⟨fun a b p q x y ha hb => ?finite, fun a b p q x ha hb => ?mixed, fun a b p q ha hb => ?infinite,
    fun a b h => ?nan, fun num den hden => ?shared⟩
  case finite =>
    refine ⟨fadd_roundsTo ha hb, fadd_cancel ha hb, fsub_roundsTo ha hb, fsub_cancel ha hb, ?_, fun hy => ?_, ?_⟩
    · exact fmul_fin ha hb ▸ roundsTo_pack _ _ (by norm_num)
    · exact fdiv_fin ha hb hy ▸ roundsTo_pack _ _ (Nat.pos_of_ne_zero hy)
    · rintro rfl rfl
      exact fdiv_fin_zero ha hb
  case mixed =>
    refine ⟨?_, fun hx => ?_, ?_, ?_, ?_, ?_⟩
    · rintro rfl
      exact ⟨fmul_inf_fin ha hb, fmul_fin_inf hb ha⟩
    · rw [fmul_inf_fin ha hb, fmul_fin_inf hb ha, if_neg hx, if_neg hx, f32_infinity, f32_infinity, bne_comm (a := q)]
      exact ⟨rfl, rfl⟩
    · rw [fadd_inf_fin ha hb, f32_infinity]
    · rw [fadd_fin_inf hb ha, f32_infinity]
    · rw [fsub, fadd_inf_fin ha (f32_fneg_fin hb), f32_infinity]
    · rw [fsub, fadd_fin_inf hb (f32_fneg_inf ha), f32_infinity]
  case infinite =>
    have hsub := fadd_inf_inf ha (f32_fneg_inf hb)
    refine ⟨?_, fun hpq => ?_, fun hpq => ?_, fun hpq => ?_, fun hpq => ?_⟩
    · rw [fmul_inf_inf ha hb, f32_infinity]
    · rw [fadd_inf_inf ha hb, if_neg hpq]
      rfl
    · rw [fadd_inf_inf ha hb, if_pos hpq, f32_infinity]
    · rw [fsub, hsub, if_neg (by simp [hpq])]
      rfl
    · rw [fsub, hsub, if_pos (Bool.eq_not.2 hpq), f32_infinity]
  case nan =>
    rw [isNaN_iff, isNaN_iff] at h
    exact ⟨fadd_nan h, fsub_nan h, fmul_nan h, fdiv_nan h⟩
  case shared =>
    refine ⟨roundMag_eq_infinity_iff num hden, fun hfin b hb => ?_⟩
    rw [valueOf_pack false hfin, valueOf_pack false hb]
    exact roundMag_nearest num hden hfin b

/-- Settles O52: no result is a NaN but `canonNaN`, by the kinds of the operands; and FXDEC rounds a number. -/
theorem everyNaNResultIsCanonical : Obligations.EveryNaNResultIsCanonical := by
  refine ⟨fun a b => ⟨fadd_canonicalNaN a b, fadd_canonicalNaN a (fneg b), fmul_canonicalNaN a b,
    fdiv_canonicalNaN a b⟩, b32_canonicalNaN, fun q => ?_⟩
  have hdec : isNaN (fxDec q) = false := isNaN_fromFixed 32 24 q
  rw [b32_of_not_nan hdec, hdec]

end Sys2Proof.Proofs
end

section
/-! SUPPORT. The 8.24 and 16-bit conversions (40_datapath.md R90 to R95): encoding rounds and saturates, decoding is exact
where some magnitude is the exact quotient, and the statements about them. -/

namespace Sys2Proof.Machine

/-! ### Encoding (R90, R93) -/

/-- A saturated integer is the integer kept within the signed range. -/
theorem toInt_saturate {w : Nat} (hw : 0 < w) (r : Int) :
    (saturate w r).toInt = max (-2 ^ (w - 1)) (min (2 ^ (w - 1) - 1) r) := by
  have hpos : (0 : Int) < 2 ^ (w - 1) := by positivity
  unfold saturate
  split_ifs with hhigh hlow
  · rw [BitVec.toInt_ofInt_eq_self hw (by omega) (by omega)]
    omega
  · rw [BitVec.toInt_ofInt_eq_self hw (by omega) (by omega)]
    omega
  · rw [BitVec.toInt_ofInt_eq_self hw (by omega) (by omega)]
    omega

/-- The encoders on a finite value: the rounded product, saturated. -/
theorem toInt_toFixed {w : Nat} (hw : 0 < w) (frac : Nat) {f : Word} {neg : Bool} {mag : Nat}
    (hf : f32 f = .fin neg mag) :
    (toFixed w frac f).toInt =
      max (-2 ^ (w - 1)) (min (2 ^ (w - 1) - 1) (signed neg (rneDiv (mag * 2 ^ frac) (2 ^ 149)))) := by
  rw [← toInt_saturate hw]
  simp only [toFixed, hf]

theorem toFixed_nan (w frac : Nat) {f : Word} (hf : f32 f = .nan) : toFixed w frac f = 0 := by
  simp only [toFixed, hf]

/-! ### Decoding (R91, R94) -/

theorem signed_natAbs (z : Int) : signed (decide (z < 0)) z.natAbs = z := by
  unfold signed
  split_ifs with h
  · have hneg : z < 0 := of_decide_eq_true h
    omega
  · have hnonneg : ¬ z < 0 := fun hz => h (decide_eq_true hz)
    omega

theorem signed_mul (neg : Bool) (v k : Nat) : signed neg v * k = signed neg (v * k) := by
  unfold signed
  split_ifs
  · push_cast
    exact neg_mul _ _
  · push_cast
    rfl

/-- Where a finite magnitude is the exact quotient, decoding gives it with the sign of the integer. -/
theorem fromFixed_exact {w frac n : Nat} {q : BitVec w} (hn : n < 0x7F800000)
    (hexact : magnitude n * 2 ^ frac = q.toInt.natAbs * 2 ^ 149) :
    fromFixed w frac q = pack (decide (q.toInt < 0)) n := by
  rw [fromFixed, roundMag_exact _ (Nat.two_pow_pos frac) hn hexact]

/-- There its value is the exact quotient. -/
theorem valueOf_fromFixed {w frac n : Nat} {q : BitVec w} (hn : n < 0x7F800000)
    (hexact : magnitude n * 2 ^ frac = q.toInt.natAbs * 2 ^ 149) :
    valueOf (fromFixed w frac q) * 2 ^ frac = q.toInt * 2 ^ 149 := by
  have hvalue := signed_mul (decide (q.toInt < 0)) (magnitude n) (2 ^ frac)
  rw [hexact, ← signed_mul, signed_natAbs] at hvalue
  rw [fromFixed_exact hn hexact, valueOf_pack _ hn]
  exact_mod_cast hvalue

/-- A 16-bit sample is a significand of the format at weight 2^-15, so that some magnitude is its exact value. -/
theorem exists_magnitude_sample (h : Half) : ∃ n, n < 0x7F800000 ∧ magnitude n = h.toInt.natAbs * 2 ^ 134 := by
  have hlo := BitVec.le_toInt h
  have hhi := BitVec.toInt_lt (x := h)
  exact exists_finite_magnitude (by omega) (by norm_num)

/-- S16Dec is exact (R94), in units of 2^-149. -/
theorem valueOf_s16Dec (h : Half) : valueOf (s16Dec h) = h.toInt * 2 ^ 134 := by
  obtain ⟨n, hn, hmag⟩ := exists_magnitude_sample h
  have hexact := valueOf_fromFixed (frac := 15) hn (by rw [hmag]; ring)
  change valueOf (s16Dec h) * 2 ^ 15 = _ at hexact
  omega

end Sys2Proof.Machine

namespace Sys2Proof.Proofs

open Sys2Proof.Machine

/-- Settles O60: the encoders saturate (`toInt_toFixed`); an infinity is beyond the range. -/
theorem encodersSaturate : Obligations.EncodersSaturate := by
  refine ⟨fun f neg mag hf => ⟨toInt_toFixed (by norm_num) 24 hf, toInt_toFixed (by norm_num) 15 hf⟩,
    fun f hf => ?_, rfl, rfl, rfl, rfl⟩
  rw [isNaN_iff] at hf
  exact ⟨toFixed_nan 32 24 hf, toFixed_nan 16 15 hf⟩

/-- Settles O57: the sample is a significand of the format, so that no rounding changes it. -/
theorem s16DecIsExact : Obligations.S16DecIsExact := by
  refine ⟨fun h => ⟨isNaN_fromFixed 16 15 h, ?_⟩, ?_, ?_, ?_⟩
  · rw [valueOf_s16Dec]
    ring
  · exact fromFixed_exact (n := 0x3F800000) (by norm_num) (by decide)
  · exact fromFixed_exact (n := 0x3F7FFE00) (by norm_num) (by decide)
  · exact fromFixed_exact (n := 0) (by norm_num) rfl

/-- Settles O58: encoding errs by at most half a step and decoding not at all; only the samples from 32767.5 steps on
saturate, by less than a step. -/
theorem sixteenBitRoundTripBound : Obligations.SixteenBitRoundTripBound := by
  intro f neg mag hf hlo hhi
  have henc : (s16Enc f).toInt = _ := toInt_toFixed (w := 16) (by norm_num) 15 hf
  obtain ⟨hlow, hhigh, -⟩ := rneDiv_spec (mag * 2 ^ 15) (den := 2 ^ 149) (by norm_num)
  rw [valueOf_s16Dec, henc]
  generalize rneDiv (mag * 2 ^ 15) (2 ^ 149) = r at *
  cases neg
  · simp only [signed_false] at *
    omega
  · simp only [signed_true] at *
    omega

end Sys2Proof.Proofs
end

section
/-! SUPPORT. Valid gains (40_datapath.md R82), the gain check of the mixers (60_exceptions.md R121 to R123), and the
statements about them. -/

namespace Sys2Proof.Machine

/-- A valid gain is the encoding of a finite magnitude with sign bit 0. -/
theorem validGain_iff (b : Word) : validGain b = true ↔ b.msb = false ∧ magBits b < 0x7F800000 := by
  rw [validGain, Bool.and_eq_true, Bool.not_eq_true']
  exact and_congr_right' (isFinite_iff b)

theorem validGain_iff_toNat (b : Word) : validGain b = true ↔ b.toNat < 0x7F800000 := by
  rw [validGain_iff, BitVec.msb_eq_decide, decide_eq_false_iff_not, magBits]
  omega

/-- A valid gain is its own magnitude. -/
theorem f32_of_validGain {b : Word} (h : validGain b = true) : f32 b = .fin false (magnitude b.toNat) := by
  have hlt := (validGain_iff_toNat b).1 h
  obtain ⟨hmsb, hfin⟩ := (validGain_iff b).1 h
  rw [f32_of_finite hfin, hmsb, magBits, Nat.mod_eq_of_lt (by omega)]

theorem validGain_pack {n : Nat} (h : n < 0x7F800000) : validGain (pack false n) = true := by
  rw [validGain_iff_toNat, toNat_pack false (by omega)]
  exact h

/-- With the checks before it passed, the first invalid gain is the first error (R122, R123). -/
theorem Checks.firstError_of_gain {c : Checks} {g : Word × Word} (hpresent : c.present = true) (hctx : c.ctxOk = true)
    (hcount : c.countOk = true) (hgain : c.gains.find? (fun g => !validGain g.2) = some g) :
    c.firstError = some (.gain, g.1) := by
  simp [Checks.firstError, hpresent, hctx, hcount, hgain]

/-- The first invalid gain among the input gains, which stand first. -/
theorem find?_inputGain {m : Nat} {f : Fin m → Word × Word} {outputs : List (Word × Word)} {j : Fin m}
    (hbefore : ∀ l < j, validGain (f l).2 = true) (hinvalid : validGain (f j).2 = false) :
    (List.ofFn f ++ outputs).find? (fun g => !validGain g.2) = some (f j) := by
  have hinput : (List.ofFn f).find? (fun g => !validGain g.2) = some (f j) :=
    List.find?_eq_some_iff_getElem.2 ⟨by rw [hinvalid]; rfl, j, by simp, by simp, fun l hl => by
      simpa using hbefore ⟨l, hl.trans j.isLt⟩ hl⟩
  rw [List.find?_append, hinput, Option.some_or]

/-- With valid input gains the output gains decide. -/
theorem find?_outputGain {m : Nat} {f : Fin m → Word × Word} (outputs : List (Word × Word))
    (hvalid : ∀ l, validGain (f l).2 = true) :
    (List.ofFn f ++ outputs).find? (fun g => !validGain g.2) = outputs.find? (fun g => !validGain g.2) := by
  have hinput : (List.ofFn f).find? (fun g => !validGain g.2) = none :=
    List.find?_eq_none.2 fun g hg => by
      obtain ⟨l, rfl⟩ := (List.mem_ofFn' f g).1 hg
      simp [hvalid l]
  rw [List.find?_append, hinput, Option.none_or]

/-- The input gain register j with its offset (R34). -/
def inputGain {m : Nat} (gin : Fin m → Word) (j : Fin m) : Word × Word := (BitVec.ofNat 32 (0x040 + 4 * j.val), gin j)

/-- The gains SMIX checks: the inputs, then the outputs (R123). -/
theorem stereoGains_eq (a : Args) :
    stereoGains a = List.ofFn (inputGain fun j : Fin 8 => a.gin[j]) ++
      [(0x060#32, a.gout[0]), (0x064#32, a.gout[1])] := rfl

/-- The gains MMIX checks: the inputs, then the output (R123). -/
theorem monoGains_eq (a : Args) :
    monoGains a = List.ofFn (inputGain fun j : Fin 4 => a.gin[j.val]) ++ [(0x060#32, a.gout[0])] := rfl

theorem exec_smix_gain {s : State} {ctx : BitVec 4} (fx : Bool) {offset gain : Word}
    (hctx : ctx.toNat < s.cfg.stereoCtx) (hlo : 2 ≤ s.args.n) (hhi : s.args.n ≤ 2048)
    (hgain : (stereoGains s.args).find? (fun g => !validGain g.2) = some (offset, gain)) :
    exec (.smix ctx fx) s = .next (s.reject .gain offset) := by
  have hcount : s.args.countIn 2 2048 = true := by simp [Args.countIn, hlo, hhi]
  rw [exec_eq_submit, submit, Checks.firstError_of_gain rfl (decide_eq_true hctx) hcount hgain]

theorem exec_mmix_gain {s : State} {ctx : BitVec 4} (fx : Bool) {offset gain : Word}
    (hctx : ctx.toNat < s.cfg.monoCtx) (hlo : 8 ≤ s.args.n) (hhi : s.args.n ≤ 2048) (hfour : s.args.n % 4 = 0)
    (hgain : (monoGains s.args).find? (fun g => !validGain g.2) = some (offset, gain)) :
    exec (.mmix ctx fx) s = .next (s.reject .gain offset) := by
  have hcount : (s.args.countIn 8 2048 && decide (s.args.n % 4 = 0)) = true := by
    simp [Args.countIn, hlo, hhi, hfour]
  rw [exec_eq_submit, submit, Checks.firstError_of_gain rfl (decide_eq_true hctx) hcount hgain]

end Sys2Proof.Machine

namespace Sys2Proof.Proofs

open Sys2Proof.Machine

/-- Settles O53: a sign bit of 0 and an exponent field below 255 bound the encoding. -/
theorem validGainsAreTheNonnegativeFinite : Obligations.ValidGainsAreTheNonnegativeFinite := by
  intro b
  rw [validGain_iff_toNat]
  omega

/-- Settles O20: the register is the first invalid entry of the gains its mixer checks. -/
theorem invalidGainIsErrGain : Obligations.InvalidGainIsErrGain := by
  refine fun s ctx fx => ⟨fun hctx hlo hhi => ?smix, fun hctx hlo hhi hfour => ?mmix⟩
  case smix =>
    have herror {offset gain : Word} := exec_smix_gain (offset := offset) (gain := gain) fx hctx hlo hhi
    rw [stereoGains_eq] at herror
    refine ⟨fun j hbefore hinvalid => ?_, fun hvalid hinvalid => ?_, fun hvalid hout hinvalid => ?_⟩
    · exact herror (find?_inputGain (f := inputGain _) hbefore hinvalid)
    · exact herror ((find?_outputGain (f := inputGain _) _ hvalid).trans (by rw [List.find?_cons, hinvalid]; rfl))
    · exact herror ((find?_outputGain (f := inputGain _) _ hvalid).trans
        (by rw [List.find?_cons, hout, List.find?_cons, hinvalid]; rfl))
  case mmix =>
    have herror {offset gain : Word} := exec_mmix_gain (offset := offset) (gain := gain) fx hctx hlo hhi hfour
    rw [monoGains_eq] at herror
    refine ⟨fun j hbefore hinvalid => ?_, fun hvalid hinvalid => ?_⟩
    · exact herror (find?_inputGain (f := inputGain _) hbefore hinvalid)
    · exact herror ((find?_outputGain (f := inputGain _) _ hvalid).trans (by rw [List.find?_cons, hinvalid]; rfl))

end Sys2Proof.Proofs
end

section
/-! SUPPORT. The gain smoothing interpolator (40_datapath.md R83, R84) and the statements about it. -/

namespace Sys2Proof.Machine

/-! ### Finite results of the operations -/

section

variable {a b : Word} {p q : Bool} {x y : Nat}

/-- A sum below the overflow threshold is finite, and its sign is that of the exact sum. -/
theorem f32_fadd (ha : f32 a = .fin p x) (hb : f32 b = .fin q y)
    (hover : (signed p x + signed q y).natAbs < (2 ^ 25 - 1) * 2 ^ 252) :
    f32 (fadd a b) =
      .fin (if signed p x + signed q y = 0 then p && q else decide (signed p x + signed q y < 0))
        (magnitude (roundMag (signed p x + signed q y).natAbs 1)) := by
  rw [fadd_fin ha hb]
  split_ifs with hz
  · rw [hz, f32_pack _ (by norm_num), Int.natAbs_zero, roundMag_zero Nat.one_pos]
  · rw [f32_pack _ (roundMag_lt _ Nat.one_pos (by omega))]

theorem f32_fmul (ha : f32 a = .fin p x) (hb : f32 b = .fin q y) (hover : x * y < (2 ^ 25 - 1) * 2 ^ 252 * 2 ^ 149) :
    f32 (fmul a b) = .fin (p != q) (magnitude (roundMag (x * y) (2 ^ 149))) := by
  rw [fmul_fin ha hb, f32_pack _ (roundMag_lt _ (by norm_num) hover)]

theorem f32_fdiv (ha : f32 a = .fin p x) (hb : f32 b = .fin q y) (hy : y ≠ 0)
    (hover : x * 2 ^ 149 < (2 ^ 25 - 1) * 2 ^ 252 * y) :
    f32 (fdiv a b) = .fin (p != q) (magnitude (roundMag (x * 2 ^ 149) y)) := by
  rw [fdiv_fin ha hb hy, f32_pack _ (roundMag_lt _ (Nat.pos_of_ne_zero hy) hover)]

theorem fgt_fin (ha : f32 a = .fin p x) (hb : f32 b = .fin q y) : fgt a b = decide (signed q y < signed p x) := by
  simp only [fgt, lineOf, ha, hb]

end

/-- Integers of at most 24 bits are exact (R83). -/
theorem f32_i2f {k : Nat} (hk : k ≤ 2 ^ 24) : f32 (i2f k) = .fin false (k * 2 ^ 149) := by
  obtain ⟨n, hn, hmag⟩ := exists_finite_magnitude (e := 149) hk (by norm_num)
  rw [i2f, roundMag_exact _ Nat.one_pos hn (by rw [hmag, Nat.mul_one]), f32_pack _ hn, hmag]

/-- Adding a zero of either sign keeps a valid gain (R84). -/
theorem fadd_zero_of_validGain {g z : Word} {q : Bool} (hg : validGain g = true) (hz : f32 z = .fin q 0) :
    fadd g z = g := by
  have hfin := (validGain_iff_toNat g).1 hg
  have hsum : signed false (magnitude g.toNat) + signed q 0 = magnitude g.toNat := by cases q <;> simp
  rw [fadd_fin (f32_of_validGain hg) hz, hsum, Int.natAbs_natCast,
    roundMag_exact _ Nat.one_pos hfin (Nat.mul_one _), decide_eq_false (by omega)]
  split_ifs with hzero
  · have h0 : g.toNat = 0 := (magnitude_eq_zero_iff _).1 (by exact_mod_cast hzero)
    exact (BitVec.eq_of_toNat_eq h0).symm
  · exact BitVec.eq_of_toNat_eq (toNat_pack false (by omega))

/-! ### The ramp -/

/-- What the ramp adds to the previous gain at frame i, before the clamp (R83). -/
def rampOffset (prev tgt : Word) (n i : Nat) : Word := fmul (fdiv (fsub tgt prev) (i2f (n - 1))) (i2f i)

theorem ramp_last (prev tgt : Word) {n i : Nat} (h : i + 1 = n) : ramp prev tgt n i = tgt := if_pos h

theorem ramp_of_lt (prev tgt : Word) {n i : Nat} (h : i + 1 < n) :
    ramp prev tgt n i =
      if fgt 0 (fadd prev (rampOffset prev tgt n i)) then 0 else fadd prev (rampOffset prev tgt n i) :=
  if_neg h.ne

/-- The step of the ramp: a finite difference divided by the number of intervals (R83). -/
theorem exists_f32_step {d : Word} {q : Bool} {D N : Nat} (hd : f32 d = .fin q D) (hD : D ≤ (2 ^ 24 - 1) * 2 ^ 253)
    (hpos : 0 < N) (hN : N ≤ 2047) :
    ∃ S, f32 (fdiv d (i2f N)) = .fin q S ∧ 2 ^ 24 * (S * N) ≤ (2 ^ 24 + 1) * D + 2 ^ 23 * N ∧ (D = 0 → S = 0) := by
  have hden : 0 < N * 2 ^ 149 := by omega
  have hdiv := f32_fdiv hd (f32_i2f (k := N) (by omega)) hden.ne' (by omega)
  rw [Bool.bne_false] at hdiv
  have hround := magnitude_roundMag_le (D * 2 ^ 149) hden
  refine ⟨_, hdiv, ?_, ?_⟩
  · generalize magnitude (roundMag (D * 2 ^ 149) (N * 2 ^ 149)) = S at *
    have hscale : 2 ^ 24 * S * (N * 2 ^ 149) = 2 ^ 24 * (S * N) * 2 ^ 149 := by ring
    omega
  · rintro rfl
    rw [Nat.zero_mul, roundMag_zero hden, magnitude_zero]

/-- The step taken i times (R83). -/
theorem exists_f32_offset {s : Word} {q : Bool} {S i : Nat} (hs : f32 s = .fin q S) (hi : i ≤ 2047)
    (hover : S * i < (2 ^ 25 - 1) * 2 ^ 252) :
    ∃ Q, f32 (fmul s (i2f i)) = .fin q Q ∧ 2 ^ 24 * Q ≤ (2 ^ 24 + 1) * (S * i) + 2 ^ 23 ∧ (S * i = 0 → Q = 0) := by
  have hscale : S * (i * 2 ^ 149) = S * i * 2 ^ 149 := (Nat.mul_assoc _ _ _).symm
  have hmul := f32_fmul hs (f32_i2f (k := i) (by omega)) (by omega)
  have hround := magnitude_roundMag_le (S * (i * 2 ^ 149)) (den := 2 ^ 149) (by norm_num)
  rw [Bool.bne_false, hscale] at hmul
  rw [hscale] at hround
  refine ⟨_, hmul, by omega, fun hzero => ?_⟩
  rw [hzero, Nat.zero_mul, roundMag_zero (by norm_num), magnitude_zero]

/-- One interval less than all of at most 2047 leaves room for the errors of the roundings: i steps exceed the exact
difference by at most 2^11 units. -/
theorem steps_le {Δ D S N i : Nat} (hN : N ≤ 2047) (hi : i < N) (hD : 2 ^ 24 * D ≤ (2 ^ 24 + 1) * Δ + 2 ^ 23)
    (hS : 2 ^ 24 * (S * N) ≤ (2 ^ 24 + 1) * D + 2 ^ 23 * N) :
    (2 ^ 24 + 1) * (S * i) ≤ 2 ^ 24 * (Δ + 2 ^ 11) := by
  have hstep : S * i + S ≤ S * N := Nat.mul_le_mul_left S hi
  have hwhole : S * N ≤ S * 2047 := Nat.mul_le_mul_left S hN
  omega

section

variable {prev tgt : Word} (hprev : validGain prev = true) (htgt : validGain tgt = true)
include hprev htgt

/-- The difference of valid gains is finite and has the sign of the exact difference (R83). -/
theorem exists_f32_fsub {P T Δ : Nat} (hP : magnitude prev.toNat = P) (hT : magnitude tgt.toNat = T)
    (hΔ : ((T : Int) - P).natAbs = Δ) :
    ∃ D, f32 (fsub tgt prev) = .fin (decide (T < P)) D ∧ D ≤ (2 ^ 24 - 1) * 2 ^ 253 ∧
      2 ^ 24 * D ≤ (2 ^ 24 + 1) * Δ + 2 ^ 23 ∧ (Δ = 0 → D = 0) := by
  have hTmax := magnitude_le_of_finite ((validGain_iff_toNat tgt).1 htgt)
  have hPmax := magnitude_le_of_finite ((validGain_iff_toNat prev).1 hprev)
  have hft := f32_of_validGain htgt
  have hfp := f32_fneg_fin (f32_of_validGain hprev)
  rw [hT] at hTmax hft
  rw [hP] at hPmax hfp
  have hdiff : signed false T + signed (!false) P = (T : Int) - P := rfl
  have hfin : roundMag Δ 1 < 0x7F800000 := roundMag_lt Δ Nat.one_pos (by omega)
  have hsub := f32_fadd hft hfp (by rw [hdiff]; omega)
  rw [hdiff, hΔ] at hsub
  refine ⟨magnitude (roundMag Δ 1), ?_, magnitude_le_of_finite hfin, ?_, ?_⟩
  · rw [fsub, hsub]
    congr 1
    split_ifs with hz
    · exact (decide_eq_false (by omega)).symm
    · exact decide_eq_decide.2 (by omega)
  · simpa using magnitude_roundMag_le Δ Nat.one_pos
  · rintro rfl
    rw [roundMag_zero Nat.one_pos, magnitude_zero]

/-- The offset is finite, with the sign of the difference; it exceeds the exact difference by at most 2^12 units; and it is
0 at frame 0 and where the gains agree. -/
theorem exists_f32_rampOffset {P T n i : Nat} (hP : magnitude prev.toNat = P) (hT : magnitude tgt.toNat = T)
    (hn : n ≤ 2048) (hi : i + 1 < n) :
    ∃ Q, f32 (rampOffset prev tgt n i) = .fin (decide (T < P)) Q ∧ Q ≤ ((T : Int) - P).natAbs + 2 ^ 12 ∧
      (i = 0 ∨ T = P → Q = 0) := by
  have hTmax := hT ▸ magnitude_le_of_finite ((validGain_iff_toNat tgt).1 htgt)
  have hPmax := hP ▸ magnitude_le_of_finite ((validGain_iff_toNat prev).1 hprev)
  obtain ⟨D, hd, hDmax, hD, hDzero⟩ := exists_f32_fsub hprev htgt hP hT rfl
  obtain ⟨S, hs, hS, hSzero⟩ := exists_f32_step hd hDmax (N := n - 1) (by omega) (by omega)
  have hsteps := steps_le (by omega) (by omega) hD hS (i := i)
  obtain ⟨Q, hQ, hbound, hQzero⟩ := exists_f32_offset hs (by omega) (i := i) (by omega)
  refine ⟨Q, hQ, by omega, fun h => hQzero ?_⟩
  rcases h with rfl | h
  · rfl
  · rw [hSzero (hDzero (by omega)), Nat.zero_mul]

/-- A ramp whose offset is 0 stays at the previous gain. -/
theorem ramp_eq_prev {n i : Nat} (hn : n ≤ 2048) (hi : i + 1 < n) (h : i = 0 ∨ tgt = prev) :
    ramp prev tgt n i = prev := by
  obtain ⟨Q, hQ, -, hzero⟩ := exists_f32_rampOffset hprev htgt rfl rfl hn hi
  rw [hzero (h.imp_right fun heq => by rw [heq])] at hQ
  rw [ramp_of_lt prev tgt hi, fadd_zero_of_validGain hprev hQ, fgt_fin f32_zero (f32_of_validGain hprev),
    decide_eq_false (by simp), if_neg nofun]

end

/-- The clamp leaves a valid gain of every sum below the overflow threshold: a negative sum is rounded to a negative
value (R83, R84). -/
theorem validGain_clamp {a b : Word} {q : Bool} {x y : Nat} {z : Int} (ha : f32 a = .fin false x)
    (hb : f32 b = .fin q y) (hz : signed false x + signed q y = z) (hover : z.natAbs < (2 ^ 25 - 1) * 2 ^ 252) :
    validGain (if fgt 0 (fadd a b) then 0 else fadd a b) = true := by
  have hfin := roundMag_lt z.natAbs Nat.one_pos (by omega)
  have hsum := fadd_fin ha hb
  rw [hz] at hsum
  rcases lt_trichotomy z 0 with hneg | rfl | hpos
  · have hmag := (magnitude_eq_zero_iff _).not.2 (roundMag_ne_zero z.natAbs Nat.one_pos (by omega))
    rw [if_neg hneg.ne, decide_eq_true hneg] at hsum
    have hbelow : fgt 0 (fadd a b) = true := by
      rw [hsum, fgt_fin f32_zero (f32_pack true hfin), decide_eq_true_eq, signed_true, signed_false]
      omega
    rw [hbelow, if_pos rfl]
    rfl
  · rw [if_pos rfl, Bool.false_and] at hsum
    rw [hsum]
    rfl
  · rw [if_neg hpos.ne', decide_eq_false (by omega)] at hsum
    split
    · rfl
    · rw [hsum]
      exact validGain_pack hfin

end Sys2Proof.Machine

namespace Sys2Proof.Proofs

open Sys2Proof.Machine

/-- Settles O54: the offset is 0 at frame 0 and where the gains agree. -/
theorem rampMeetsItsEndPoints : Obligations.RampMeetsItsEndPoints := by
  intro prev tgt n hprev htgt hlo hhi
  refine ⟨ramp_eq_prev hprev htgt hhi (by omega) (.inl rfl), ramp_last prev tgt (by omega), fun i hi => ?_⟩
  by_cases hlast : i + 1 = n
  · exact ramp_last prev prev hlast
  · exact ramp_eq_prev hprev hprev hhi (by omega) (.inr rfl)

/-- Settles O55: the previous gain and the offset sum to less than the overflow threshold, and the clamp sees to the
sign. -/
theorem rampValuesAreValidGains : Obligations.RampValuesAreValidGains := by
  intro prev tgt n i hprev htgt hlo hhi hi
  by_cases hlast : i + 1 = n
  · rwa [ramp_last prev tgt hlast]
  have hT := magnitude_le_of_finite ((validGain_iff_toNat tgt).1 htgt)
  have hP := magnitude_le_of_finite ((validGain_iff_toNat prev).1 hprev)
  obtain ⟨Q, hQ, hbound, -⟩ := exists_f32_rampOffset hprev htgt rfl rfl hhi (i := i) (by omega)
  rw [ramp_of_lt prev tgt (by omega)]
  refine validGain_clamp (f32_of_validGain hprev) hQ rfl ?_
  by_cases hdown : magnitude tgt.toNat < magnitude prev.toNat
  · rw [decide_eq_true hdown, signed_false, signed_true]
    omega
  · rw [decide_eq_false hdown, signed_false, signed_false]
    omega

end Sys2Proof.Proofs
end

section
/-! SUPPORT. The peak detector (40_datapath.md R88) and the statement about it. -/

namespace Sys2Proof.Machine

theorem isNaN_eq_false_iff (b : Word) : isNaN b = false ↔ ∃ z, lineOf (f32 b) = some z := by
  unfold isNaN
  cases f32 b with
  | nan => simp [lineOf]
  | inf s => exact ⟨fun _ => ⟨_, rfl⟩, fun _ => rfl⟩
  | fin s x => exact ⟨fun _ => ⟨_, rfl⟩, fun _ => rfl⟩

theorem fgt_eq_true_iff (a b : Word) :
    fgt a b = true ↔ ∃ x y, lineOf (f32 a) = some x ∧ lineOf (f32 b) = some y ∧ y < x := by
  unfold fgt
  cases lineOf (f32 a) <;> cases lineOf (f32 b) <;> simp

/-- Not being greater is transitive through a number. -/
theorem fgt_eq_false_trans {a b c : Word} (hab : fgt a b = false) (hbc : fgt b c = false) (hb : isNaN b = false) :
    fgt a c = false := by
  obtain ⟨y, hy⟩ := (isNaN_eq_false_iff b).1 hb
  rw [← Bool.not_eq_true, fgt_eq_true_iff] at *
  rintro ⟨x, z, hx, hz, hlt⟩
  have hxy : ¬ y < x := fun h => hab ⟨x, y, hx, hy, h⟩
  have hyz : ¬ z < y := fun h => hbc ⟨y, z, hy, hz, h⟩
  omega

theorem fgt_self (b : Word) : fgt b b = false := by
  rw [← Bool.not_eq_true, fgt_eq_true_iff]
  rintro ⟨x, y, hx, hy, hlt⟩
  obtain rfl : x = y := Option.some.inj (hx.symm.trans hy)
  omega

/-- What is greater than something is a number, and is not exceeded by it. -/
theorem of_fgt {a b : Word} (h : fgt a b = true) : isNaN a = false ∧ fgt b a = false := by
  obtain ⟨x, y, hx, hy, hlt⟩ := (fgt_eq_true_iff a b).1 h
  refine ⟨(isNaN_eq_false_iff a).2 ⟨x, hx⟩, ?_⟩
  rw [← Bool.not_eq_true, fgt_eq_true_iff, hx, hy]
  rintro ⟨_, _, ⟨⟩, ⟨⟩, hgt⟩
  omega

/-- A peak update is a number that neither the meter nor the value exceeds, and it is one of the two (R88). -/
theorem peakUpd_spec {m : Word} (hm : isNaN m = false) (y : Word) :
    isNaN (peakUpd m y) = false ∧ fgt m (peakUpd m y) = false ∧ fgt (fabs y) (peakUpd m y) = false ∧
    (peakUpd m y = m ∨ peakUpd m y = fabs y) := by
  unfold peakUpd
  split
  · next h => exact ⟨(of_fgt h).1, (of_fgt h).2, fgt_self _, .inr rfl⟩
  · next h => exact ⟨hm, fgt_self m, by simpa using h, .inl rfl⟩

/-- A meter ends as a number, the largest among its start and the magnitudes it was given (R88). -/
theorem foldl_peakUpd_spec (ys : List Word) {m : Word} (hm : isNaN m = false) :
    isNaN (ys.foldl peakUpd m) = false ∧ fgt m (ys.foldl peakUpd m) = false ∧
    (∀ y ∈ ys, fgt (fabs y) (ys.foldl peakUpd m) = false) ∧
    (ys.foldl peakUpd m = m ∨ ∃ y ∈ ys, ys.foldl peakUpd m = fabs y) := by
  induction ys generalizing m with
  | nil => exact ⟨hm, fgt_self m, nofun, .inl rfl⟩
  | cons y ys ih =>
    obtain ⟨hnum, hstart, hy, hfrom⟩ := peakUpd_spec hm y
    obtain ⟨hend, hle, hrest, hfrom'⟩ := ih hnum
    refine ⟨hend, fgt_eq_false_trans hstart hle hnum, ?_, ?_⟩
    · rintro y' (_ | ⟨_, hy'⟩)
      · exact fgt_eq_false_trans hy hle hnum
      · exact hrest y' hy'
    · rw [List.foldl_cons]
      rcases hfrom' with h | ⟨y', hy', h⟩
      · exact hfrom.imp h.trans fun h' => ⟨y, List.mem_cons_self, h.trans h'⟩
      · exact .inr ⟨y', List.mem_cons_of_mem y hy', h⟩

end Sys2Proof.Machine

namespace Sys2Proof.Proofs

open Sys2Proof.Machine

/-- Settles O56: each update takes the larger of the meter and a magnitude. -/
theorem meterIsTheLargestMagnitude : Obligations.MeterIsTheLargestMagnitude := by
  intro ys
  obtain ⟨hnum, -, hall, hfrom⟩ := foldl_peakUpd_spec ys (m := 0) rfl
  exact ⟨hnum, hall, hfrom⟩

end Sys2Proof.Proofs
end

section
/-! SUPPORT. Elements of regions that do not overlap (R57), the places an SMIX reads and writes (R50, R100) and the meter
arrays in memory (R101). -/

namespace Sys2Proof.Machine

/-! ### Regions that do not overlap -/

theorem overlaps_of_undisturbed {i : Instr} {s : State} (h : i.undisturbed s = true) :
    overlaps (regionsOf i s.args) = false := by
  simp only [Instr.undisturbed, Bool.and_eq_true, Bool.not_eq_true'] at h
  obtain ⟨⟨⟨hover, -⟩, -⟩, -⟩ := h
  exact hover

section Elements

variable {rs : List Region} (hover : overlaps rs = false) {o r : Region} (ho : o ∈ rs) (hr : r ∈ rs)
  (hreg : o.reg ≠ r.reg) (hout : o.out = true) (hoUsed : o.used = true) (hrUsed : r.used = true)
  (hoElem : 0 < o.elem) (hrElem : 0 < r.elem) {j l : Nat} (hj : j < o.count) (hl : l < r.count)
include hover ho hr hreg hout hoUsed hrUsed hoElem hrElem hj hl

/-- Without a non-exact overlap an element of a used "out" region shares no byte with an element of another used region,
unless the two regions are in place: one base, element size and count, an "in" region and no meter (R57, R102). -/
theorem elems_disjoint :
    (elemAddr o.ptr o.elem j + o.elem ≤ elemAddr r.ptr r.elem l ∨
      elemAddr r.ptr r.elem l + r.elem ≤ elemAddr o.ptr o.elem j) ∨
    (o.isMeter = false ∧ r.out = false ∧ o.ptr = r.ptr ∧ o.elem = r.elem ∧ o.count = r.count) := by
  have hclash : clashes o r = false := by
    simp only [overlaps, List.any_eq_false, Bool.not_eq_true] at hover
    exact hover o ho r hr
  cases hplace : exactInPlace o r with
  | true => exact .inr (by simpa [exactInPlace, and_assoc] using hplace)
  | false =>
    have hmeets : o.span.meets r.span = false := by simpa [clashes, hout, hreg, hoUsed, hrUsed, hplace] using hclash
    have hapart := of_decide_eq_false hmeets
    have hjle : o.elem * (j + 1) ≤ o.elem * o.count := Nat.mul_le_mul_left _ hj
    have hlle : r.elem * (l + 1) ≤ r.elem * r.count := Nat.mul_le_mul_left _ hl
    simp only [Region.span, Region.bytes] at hapart
    rw [Nat.mul_add_one] at hjle hlle
    unfold elemAddr
    omega

/-- Two "out" regions are never in place, so without a non-exact overlap their elements share no byte. -/
theorem outElems_disjoint (hrOut : r.out = true) :
    elemAddr o.ptr o.elem j + o.elem ≤ elemAddr r.ptr r.elem l ∨
      elemAddr r.ptr r.elem l + r.elem ≤ elemAddr o.ptr o.elem j :=
  (elems_disjoint hover ho hr hreg hout hoUsed hrUsed hoElem hrElem hj hl).resolve_right fun ⟨_, hin, _⟩ => by
    simp [hrOut] at hin

end Elements

/-! ### Where an SMIX reads and writes -/

theorem srcRegion_mem_smixRegions (a : Args) (k : Fin 4) : srcRegion a k 4 2 false 0 ∈ smixRegions a := by
  fin_cases k <;> simp [smixRegions]

theorem meterRegion_used (reg : Word) {ptr : Word} (count : Nat) (h : ptr ≠ 0) :
    (meterRegion reg ptr count).used = true := by
  simpa [Region.used, meterRegion] using h

section Places

variable {a : Args} (hlegal : regionsLegal (smixRegions a) = true) {i l : Nat}
include hlegal

/-- The output word of a frame and side is an element of a used output region: of the side's own in a split layout, else
of OUT0 with both sides by turns (R100). -/
theorem smixOutAddr_elem (hi : i < a.n) (side : Fin 2) :
    ∃ (k : Fin 2) (j : Nat) (req : Bool), dstRegion a k 4 (if a.split then 1 else 2) req 0 ∈ smixRegions a ∧
      (dstRegion a k 4 (if a.split then 1 else 2) req 0).used = true ∧ j < (if a.split then 1 else 2) * a.n ∧
      smixOutAddr a i side = elemAddr a.out[k] 4 j ∧
      if a.split then k = side ∧ j = i else k = 0 ∧ j = 2 * i + side.val := by
  have hdst0 : dstRegion a 0 4 (if a.split then 1 else 2) true 0 ∈ smixRegions a := by simp [smixRegions]
  have hused0 := used_of_required hlegal hdst0 rfl
  unfold smixOutAddr
  cases hsplit : a.split with
  | false =>
    rw [hsplit] at hdst0 hused0
    exact ⟨0, 2 * i + side.val, true, hdst0, hused0, by simp; omega, rfl, rfl, rfl⟩
  | true =>
    rw [hsplit] at hdst0 hused0
    match side with
    | 0 => exact ⟨0, i, true, hdst0, hused0, by simpa, rfl, rfl, rfl⟩
    | 1 => exact ⟨1, i, false, by simp [smixRegions], hsplit, by simpa, rfl, rfl, rfl⟩

variable (hover : overlaps (smixRegions a) = false)
include hover

/-- Different output words share no byte. -/
theorem smixOut_apart {side side' : Fin 2} (hi : i < a.n) (hl : l < a.n) (hne : i ≠ l ∨ side ≠ side') :
    smixOutAddr a i side + 4 ≤ smixOutAddr a l side' ∨ smixOutAddr a l side' + 4 ≤ smixOutAddr a i side := by
  obtain ⟨k, j, req, hk, hkUsed, hj, haddr, hkj⟩ := smixOutAddr_elem hlegal hi side
  obtain ⟨k', j', req', hk', hkUsed', hj', haddr', hkj'⟩ := smixOutAddr_elem hlegal hl side'
  rw [haddr, haddr']
  by_cases hkk : k = k'
  · subst hkk
    have hjj : j ≠ j' := by split_ifs at hkj hkj' <;> omega
    unfold elemAddr
    omega
  · have hreg : ∀ k k' : Fin 2, k ≠ k' →
        BitVec.ofNat 32 (0x030 + 4 * k.val) ≠ BitVec.ofNat 32 (0x030 + 4 * k'.val) := by decide
    exact outElems_disjoint hover hk hk' (hreg k k' hkk) rfl hkUsed hkUsed' (Nat.succ_pos 3) (Nat.succ_pos 3) hj hj' rfl

/-- No earlier frame writes what a frame reads: a source is apart from the output, or it is the output's own buffer, whose
frames are done in rising order (R57, R58). -/
theorem smixSource_apart {slot : Fin 4} (hslot : a.inp[slot] ≠ 0) (side side' : Fin 2) (hi : i < a.n) (hl : l < i) :
    elemAddr a.inp[slot] 4 (2 * i + side.val) + 4 ≤ smixOutAddr a l side' ∨
      smixOutAddr a l side' + 4 ≤ elemAddr a.inp[slot] 4 (2 * i + side.val) := by
  obtain ⟨k, j, req, hk, hkUsed, hj, haddr, hkj⟩ := smixOutAddr_elem hlegal (hl.trans hi) side'
  have hreg : ∀ (k : Fin 2) (slot : Fin 4),
      BitVec.ofNat 32 (0x030 + 4 * k.val) ≠ BitVec.ofNat 32 (0x020 + 4 * slot.val) := by decide
  have hsrcUsed : (srcRegion a slot 4 2 false 0).used = true := by simpa [Region.used, srcRegion] using hslot
  have hsrc : 2 * i + side.val < 2 * a.n := by omega
  rw [haddr]
  rcases elems_disjoint hover hk (srcRegion_mem_smixRegions a slot) (hreg k slot) rfl hkUsed hsrcUsed (Nat.succ_pos 3)
    (Nat.succ_pos 3) hj hsrc with hapart | ⟨-, -, hptr, -, hcount⟩
  · exact hapart.symm
  · simp only [dstRegion, srcRegion] at hptr hcount
    rw [hptr]
    unfold elemAddr
    split_ifs at hkj hcount <;> omega

/-- No meter word shares a byte with an output word (R102). -/
theorem smixMeter_apart {reg ptr : Word} {count j : Nat} (hmem : meterRegion reg ptr count ∈ smixRegions a)
    (hreg : ∀ k : Fin 2, reg ≠ BitVec.ofNat 32 (0x030 + 4 * k.val)) (hptr : ptr ≠ 0) (hj : j < count) (side : Fin 2)
    (hi : i < a.n) :
    elemAddr ptr 4 j + 4 ≤ smixOutAddr a i side ∨ smixOutAddr a i side + 4 ≤ elemAddr ptr 4 j := by
  obtain ⟨k, j', req, hk, hkUsed, hj', haddr, -⟩ := smixOutAddr_elem hlegal hi side
  rw [haddr]
  exact outElems_disjoint hover hmem hk (hreg k) rfl (meterRegion_used reg count hptr) hkUsed (Nat.succ_pos 3)
    (Nat.succ_pos 3) hj hj' rfl

end Places

/-! ### Meter arrays in memory -/

theorem writeMeters_null (m : Memory) (values : List Word) : writeMeters m 0 values = m := if_pos rfl

section Meters

variable (m : Memory) {ptr : Word}

theorem writeMeters_concat (hptr : ptr ≠ 0) (values : List Word) (v : Word) :
    writeMeters m ptr (values ++ [v]) = (writeMeters m ptr values).writeWord (elemAddr ptr 4 values.length) (b32 v) := by
  rw [writeMeters, writeMeters, if_neg hptr, if_neg hptr]
  simp [List.zipIdx_append]

/-- A meter array leaves every word apart from its own. -/
theorem readWord_writeMeters_apart (values : List Word) {b : Nat}
    (h : ptr ≠ 0 → ∀ j < values.length, elemAddr ptr 4 j + 4 ≤ b ∨ b + 4 ≤ elemAddr ptr 4 j) :
    (writeMeters m ptr values).readWord b = m.readWord b := by
  by_cases hptr : ptr = 0
  · rw [hptr, writeMeters_null]
  induction values using List.reverseRecOn with
  | nil => simp [writeMeters]
  | append_singleton values v ih =>
    have hlast := h hptr values.length (by simp)
    rw [writeMeters_concat m hptr, Memory.readWord_writeWord_disjoint _ _ hlast.symm,
      ih fun _ j hj => h hptr j (by simp; omega)]

/-- A meter array read back. -/
theorem readWord_writeMeters (hptr : ptr ≠ 0) (values : List Word) {j : Nat} (hj : j < values.length) :
    (writeMeters m ptr values).readWord (elemAddr ptr 4 j) = b32 values[j] := by
  induction values using List.reverseRecOn with
  | nil => exact absurd hj (Nat.not_lt_zero j)
  | append_singleton values v ih =>
    rw [writeMeters_concat m hptr]
    by_cases hlast : j = values.length
    · subst hlast
      simp
    · have hlt : j < values.length := by simp at hj; omega
      rw [Memory.readWord_writeWord_disjoint _ _ (by unfold elemAddr; omega), ih hlt, List.getElem_append_left hlt]

end Meters

end Sys2Proof.Machine
end

section
/-! SUPPORT. The machine after each frame and at the end of an undisturbed SMIX (41_stereo_mixer.md R99 to R102), and the
statement about it. -/

namespace Sys2Proof.Machine

/-- The meters of the input sides after the first k frames of an SMIX that starts in `s` (R88, R89). -/
def metersIn (s : State) (ctx : BitVec 4) (k : Nat) : Vector Word 8 := Vector.ofFn fun j => meterIn s ctx j k

/-- The meters of the output sides after the first k frames of an SMIX that starts in `s` (R88, R89). -/
def metersOut (s : State) (ctx : BitVec 4) (k : Nat) : Vector Word 2 := Vector.ofFn fun j => meterOut s ctx j k

@[simp] theorem metersIn_getElem (s : State) (ctx : BitVec 4) (k : Nat) {j : Nat} (hj : j < 8) :
    (metersIn s ctx k)[j] = meterIn s ctx ⟨j, hj⟩ k := Vector.getElem_ofFn hj

@[simp] theorem metersOut_getElem (s : State) (ctx : BitVec 4) (k : Nat) {j : Nat} (hj : j < 2) :
    (metersOut s ctx k)[j] = meterOut s ctx ⟨j, hj⟩ k := Vector.getElem_ofFn hj

/-- Memory after the first k frames of an SMIX that starts in `s` (R100). -/
def smixMem (s : State) (ctx : BitVec 4) (fx : Bool) : Nat → Memory
  | 0 => s.mem
  | k + 1 =>
    ((smixMem s ctx fx k).writeWord (smixOutAddr s.args k 0) (outWord fx (smixOut s ctx k 0))).writeWord
      (smixOutAddr s.args k 1) (outWord fx (smixOut s ctx k 1))

/-- The hidden state after the first k frames of an undisturbed SMIX that starts in `s` (R40). -/
def smixRun (s : State) (ctx : BitVec 4) (fx : Bool) (acc : Vector Word 2) (k : Nat) : Run :=
  { instr := .smix ctx fx, frame := k, acc := acc, maxIn := metersIn s ctx k, maxOut := metersOut s ctx k,
    fate := .completes, dirty := false }

/-- The machine after the first k frames of an undisturbed SMIX that starts in `s`. -/
def smixAt (s : State) (ctx : BitVec 4) (fx : Bool) (acc : Vector Word 2) (k : Nat) : State :=
  { s with mem := smixMem s ctx fx k, run := some (smixRun s ctx fx acc k) }

theorem smixAt_run (s : State) (ctx : BitVec 4) (fx : Bool) (acc : Vector Word 2) (k : Nat) :
    (smixAt s ctx fx acc k).run = some (smixRun s ctx fx acc k) := rfl

/-- Memory after the completion writes of an SMIX that starts in `s` (R101). -/
def smixEndMem (s : State) (ctx : BitVec 4) (fx : Bool) : Memory :=
  writeMeters (writeMeters (smixMem s ctx fx s.args.n) s.args.imtr (metersIn s ctx s.args.n).toList) s.args.omtr
    (metersOut s ctx s.args.n).toList

/-- The machine after an undisturbed SMIX that starts in `s` (R101, R128). -/
def smixEnd (s : State) (ctx : BitVec 4) (fx : Bool) : State :=
  { s.setStereo ctx { inp := s.args.gin, out := s.args.gout } with
    mem := smixEndMem s ctx fx
    peakIn := (metersIn s ctx s.args.n).map b32
    peakOut := (metersOut s ctx s.args.n).map b32
    done := true
    unseen := outSpans (smixRegions s.args) ++ s.unseen
    run := none }

section Frames

variable {s : State} {ctx : BitVec 4} {fx : Bool}

/-- An accepted, undisturbed SMIX enters RUNNING before its first frame (R127). -/
theorem exec_smix_undisturbed (hacc : (Instr.smix ctx fx).accepted s = true)
    (hund : (Instr.smix ctx fx).undisturbed s = true) :
    exec (.smix ctx fx) s = .next (smixAt s ctx fx (Vector.replicate 2 0) 0) := by
  rw [exec_of_accepted_runs rfl hacc, startRun_of_undisturbed hund]
  rfl

/-- The frames leave every word apart from their output words. -/
theorem readWord_smixMem_apart {k b : Nat}
    (h : ∀ i < k, ∀ side, b + 4 ≤ smixOutAddr s.args i side ∨ smixOutAddr s.args i side + 4 ≤ b) :
    (smixMem s ctx fx k).readWord b = s.mem.readWord b := by
  induction k with
  | zero => rfl
  | succ k ih =>
    rw [smixMem, Memory.readWord_writeWord_disjoint _ _ (h k (by omega) 1),
      Memory.readWord_writeWord_disjoint _ _ (h k (by omega) 0), ih fun i hi => h i (by omega)]

/-- A slot's contribution rests on memory at its source word only. -/
theorem smixContribution_congr {m : Memory} {run : Option Run} {i : Nat} {slot : Fin 4} {side : Fin 2}
    (h : s.args.inp[slot] ≠ 0 → m.readWord (elemAddr s.args.inp[slot] 4 (2 * i + side.val)) =
      s.mem.readWord (elemAddr s.args.inp[slot] 4 (2 * i + side.val))) :
    smixContribution { s with mem := m, run := run } ctx i slot side = smixContribution s ctx i slot side := by
  unfold smixContribution
  split_ifs with hnull
  · rfl
  · rw [← h hnull]; rfl

/-- A frame that finds its contributions as they are at the start leaves the machine of the next frame. -/
theorem frameTurn_smixAt {acc : Vector Word 2} {k : Nat}
    (h : ∀ slot side, smixContribution (smixAt s ctx fx acc k) ctx k slot side = smixContribution s ctx k slot side) :
    frameTurn (smixRun s ctx fx acc k) (smixAt s ctx fx acc k) =
      smixAt s ctx fx (Vector.ofFn fun side => smixAcc s ctx k side) (k + 1) := by
  have hacc : ∀ side, smixAcc (smixAt s ctx fx acc k) ctx k side = smixAcc s ctx k side := fun side => by
    simp only [smixAcc, h]
  have hout : ∀ side, smixOut (smixAt s ctx fx acc k) ctx k side = smixOut s ctx k side := fun side => by
    rw [smixOut, hacc]; rfl
  simp only [frameTurn, smixRun, smixFrame, smixMaxIn, smixMaxOut, h, hacc, hout]
  simp [smixAt, smixRun, smixMem, metersIn, metersOut, meterIn, meterOut]

theorem completeRun_smixAt (s : State) (ctx : BitVec 4) (fx : Bool) (acc : Vector Word 2) :
    completeRun (smixRun s ctx fx acc s.args.n) (smixAt s ctx fx acc s.args.n) = smixEnd s ctx fx := rfl

theorem readWord_smixEndMem_omtr (hptr : s.args.omtr ≠ 0) (k : Fin 2) :
    (smixEndMem s ctx fx).readWord (elemAddr s.args.omtr 4 k.val) = b32 (meterOut s ctx k s.args.n) := by
  rw [smixEndMem, readWord_writeMeters _ hptr _ (by simp; omega), Vector.getElem_toList, metersOut_getElem]

variable (hover : overlaps (smixRegions s.args) = false)
include hover

/-- The input meters in memory: the output meters are written apart from them (R101, R102). -/
theorem readWord_smixEndMem_imtr (hptr : s.args.imtr ≠ 0) (j : Fin 8) :
    (smixEndMem s ctx fx).readWord (elemAddr s.args.imtr 4 j.val) = b32 (meterIn s ctx j s.args.n) := by
  rw [smixEndMem, readWord_writeMeters_apart, readWord_writeMeters _ hptr _ (by simp), Vector.getElem_toList,
    metersIn_getElem]
  intro homtr l hl
  rw [Vector.length_toList] at hl
  exact outElems_disjoint hover (o := meterRegion 0x03C s.args.omtr 2) (r := meterRegion 0x038 s.args.imtr 8)
    (by simp [smixRegions]) (by simp [smixRegions]) (by simp [meterRegion]) rfl (meterRegion_used _ _ homtr)
    (meterRegion_used _ _ hptr) (Nat.succ_pos 3) (Nat.succ_pos 3) hl j.isLt rfl

variable (hlegal : regionsLegal (smixRegions s.args) = true)
include hlegal

/-- From its own frame on an output word holds what that frame mixed (R100). -/
theorem readWord_smixMem {i k : Nat} (hi : i < k) (hk : k ≤ s.args.n) (side : Fin 2) :
    (smixMem s ctx fx k).readWord (smixOutAddr s.args i side) = outWord fx (smixOut s ctx i side) := by
  have happart {l : Nat} (hl : l < s.args.n) (side side' : Fin 2) (hne : i ≠ l ∨ side ≠ side') :=
    smixOut_apart hlegal hover (by omega) hl hne
  induction k with
  | zero => omega
  | succ k ih =>
    rw [smixMem]
    by_cases hlast : i = k
    · subst hlast
      match side with
      | 0 => rw [Memory.readWord_writeWord_disjoint _ _ (happart hk 0 1 (.inr nofun)), Memory.readWord_writeWord_same]
      | 1 => rw [Memory.readWord_writeWord_same]
    · rw [Memory.readWord_writeWord_disjoint _ _ (happart hk side 1 (.inl hlast)),
        Memory.readWord_writeWord_disjoint _ _ (happart hk side 0 (.inl hlast)), ih (by omega) (by omega)]

/-- The meters are written apart from the output words (R101, R102). -/
theorem readWord_smixEndMem_out {i : Nat} (hi : i < s.args.n) (side : Fin 2) :
    (smixEndMem s ctx fx).readWord (smixOutAddr s.args i side) = outWord fx (smixOut s ctx i side) := by
  have himtr : meterRegion 0x038 s.args.imtr 8 ∈ smixRegions s.args := by simp [smixRegions]
  have homtr : meterRegion 0x03C s.args.omtr 2 ∈ smixRegions s.args := by simp [smixRegions]
  rw [smixEndMem, readWord_writeMeters_apart _ _ fun hptr j hj => smixMeter_apart hlegal hover homtr (by decide) hptr
      (by rwa [Vector.length_toList] at hj) side hi,
    readWord_writeMeters_apart _ _ fun hptr j hj => smixMeter_apart hlegal hover himtr (by decide) hptr
      (by rwa [Vector.length_toList] at hj) side hi,
    readWord_smixMem hover hlegal hi le_rfl]

/-- The frames before it leave a frame's contributions as they are at the start (R58). -/
theorem smixContribution_smixAt {acc : Vector Word 2} {k : Nat} (hk : k < s.args.n) (slot : Fin 4) (side : Fin 2) :
    smixContribution (smixAt s ctx fx acc k) ctx k slot side = smixContribution s ctx k slot side :=
  smixContribution_congr fun hslot =>
    readWord_smixMem_apart fun _ hl side' => smixSource_apart hlegal hover hslot side side' hk hl

theorem engineTurns_smixAt (acc : Vector Word 2) {k : Nat} (hk : k ≤ s.args.n) :
    ∃ acc', engineTurns k (smixAt s ctx fx acc 0) = smixAt s ctx fx acc' k := by
  induction k with
  | zero => exact ⟨acc, rfl⟩
  | succ k ih =>
    obtain ⟨acc', hturns⟩ := ih (by omega)
    refine ⟨Vector.ofFn fun side => smixAcc s ctx k side, ?_⟩
    rw [engineTurns_last, hturns, engineTurn_of_frame (smixAt_run s ctx fx acc' k) rfl hk,
      frameTurn_smixAt (smixContribution_smixAt hover hlegal hk)]

/-- The frames and the completion of an undisturbed SMIX (R128). -/
theorem engineTurns_smix (acc : Vector Word 2) :
    engineTurns (s.args.n + 1) (smixAt s ctx fx acc 0) = smixEnd s ctx fx := by
  obtain ⟨acc', hturns⟩ := engineTurns_smixAt hover hlegal acc le_rfl
  rw [engineTurns_last, hturns, engineTurn_of_completion (smixAt_run s ctx fx acc' s.args.n) rfl le_rfl,
    completeRun_smixAt]

end Frames

end Sys2Proof.Machine

namespace Sys2Proof.Proofs

open Sys2Proof.Machine

/-- Settles O26: each turn before the last is a frame that finds its sources as they were at the start
(`engineTurns_smix`), and no two output or meter words share a byte. -/
theorem smixMixesTheBlock : Obligations.SmixMixesTheBlock := by
  intro s ctx fx hidle hacc hund
  have hlegal : regionsLegal (smixRegions s.args) = true := regionsLegal_of_accepted hacc
  have hover : overlaps (smixRegions s.args) = false := overlaps_of_undisturbed hund
  have hexec := exec_smix_undisturbed hacc hund
  have hend := engineTurns_smix (ctx := ctx) (fx := fx) hover hlegal (Vector.replicate 2 0)
  have hpeakIn : ∀ j : Fin 8, (smixEnd s ctx fx).peakIn[j] = b32 (meterIn s ctx j s.args.n) := by simp [smixEnd]
  have hpeakOut : ∀ k : Fin 2, (smixEnd s ctx fx).peakOut[k] = b32 (meterOut s ctx k s.args.n) := by simp [smixEnd]
  refine ⟨_, _, hexec, rfl, hend, ?_, fun i hi side => readWord_smixEndMem_out hover hlegal hi side, hpeakIn, hpeakOut,
    fun hptr j => ?_, fun hptr k => ?_, State.stereo_setStereo_same s ctx _,
    fun c hc => State.stereo_setStereo_ne s _ hc, fun a ha => ?_⟩
  · rw [smixEnd, ← hidle]; rfl
  · exact (readWord_smixEndMem_imtr hover hptr j).trans (hpeakIn j).symm
  · exact (readWord_smixEndMem_omtr hptr k).trans (hpeakOut k).symm
  · rw [← hend]
    exact exec_turns_readByte hidle hexec _ ha

end Sys2Proof.Proofs
end

section
/-! SUPPORT. SMIX without sources (R104) and with settled gains (R105), and the statements about them and about SINIT
(R98). -/

namespace Sys2Proof.Machine

/-- What the checks of R123 give an accepted SMIX of its count and gains. -/
theorem smix_accepted {s : State} {ctx : BitVec 4} {fx : Bool} (h : (Instr.smix ctx fx).accepted s = true) :
    2 ≤ s.args.n ∧ s.args.n ≤ 2048 ∧ (∀ j : Fin 8, validGain s.args.gin[j] = true) ∧
      ∀ k : Fin 2, validGain s.args.gout[k] = true := by
  obtain ⟨hin, hout⟩ := of_decide_eq_true (gainsLegal_of_accepted h)
  simp only [Instr.accepted, Bool.and_eq_true] at h
  obtain ⟨⟨⟨-, hcount⟩, -⟩, -⟩ := h
  obtain ⟨hlo, hhi⟩ := of_decide_eq_true hcount
  exact ⟨hlo, hhi, hin, hout⟩

/-- The ramp between equal valid gains is constant (R84). -/
theorem ramp_self {g : Word} (hg : validGain g = true) {n i : Nat} (hn : n ≤ 2048) (hi : i < n) : ramp g g n i = g := by
  rcases Nat.lt_or_eq_of_le (Nat.succ_le_of_lt hi) with hlt | hlast
  · exact ramp_eq_prev hg hg hn hlt (.inr rfl)
  · exact ramp_last g g hlast

/-- +0.0 times a valid gain is +0.0. -/
theorem zero_fmul_of_validGain {g : Word} (hg : validGain g = true) : fmul 0 g = 0 := by
  rw [fmul_fin f32_zero (f32_of_validGain hg), Nat.zero_mul, roundMag_zero (by norm_num)]
  rfl

theorem outWord_zero (fx : Bool) : outWord fx 0 = 0 := by cases fx <;> rfl

section Silence

variable {s : State} (hnull : ∀ k : Fin 4, s.args.inp[k] = 0) (ctx : BitVec 4)
include hnull

theorem smixContribution_silent (i : Nat) (slot : Fin 4) (side : Fin 2) : smixContribution s ctx i slot side = none :=
  if_pos (hnull slot)

theorem smixAcc_silent (i : Nat) (side : Fin 2) : smixAcc s ctx i side = 0 := by
  simp only [smixAcc, smixContribution_silent hnull]
  rfl

theorem meterIn_silent (j : Fin 8) (k : Nat) : meterIn s ctx j k = 0 := by
  induction k with
  | zero => rfl
  | succ k ih => rw [meterIn, smixContribution_silent hnull, ih]; rfl

variable {ctx} {fx : Bool} (hacc : (Instr.smix ctx fx).accepted s = true) (hgains : s.gainsValid)
include hacc hgains

/-- With no slot active the output is the accumulator's +0.0 times a ramp value, a valid gain (R84). -/
theorem smixOut_silent {i : Nat} (hi : i < s.args.n) (side : Fin 2) : smixOut s ctx i side = 0 := by
  obtain ⟨hlo, hhi, -, hout⟩ := smix_accepted hacc
  have hprev : validGain (s.stereo ctx).out[side] = true := (hgains.1 ⟨ctx.toNat, ctx.isLt⟩).2 side
  rw [smixOut, smixAcc_silent hnull]
  exact zero_fmul_of_validGain (Proofs.rampValuesAreValidGains _ _ _ _ hprev (hout side) hlo hhi hi)

theorem meterOut_silent (side : Fin 2) {k : Nat} (hk : k ≤ s.args.n) : meterOut s ctx side k = 0 := by
  induction k with
  | zero => rfl
  | succ k ih => rw [meterOut, smixOut_silent hnull hacc hgains hk, ih (by omega)]; rfl

end Silence

end Sys2Proof.Machine

namespace Sys2Proof.Proofs

open Sys2Proof.Machine

/-- Settles O35: the block of `smixMixesTheBlock` with every output value and every meter +0.0. -/
theorem silentInputsGiveSilence : Obligations.SilentInputsGiveSilence := by
  intro s ctx fx hidle hgains hacc hund hnull
  obtain ⟨t, u, hexec, -, hend, hu, hout, hpeakIn, hpeakOut, himtr, homtr, -, hother, hbytes⟩ :=
    smixMixesTheBlock s ctx fx hidle hacc hund
  have hinZero : u.peakIn = Vector.replicate 8 0 := Vector.ext fun j hj => (hpeakIn ⟨j, hj⟩).trans <| by
    rw [meterIn_silent hnull, Vector.getElem_replicate]; rfl
  have houtZero : u.peakOut = Vector.replicate 2 0 := Vector.ext fun k hk => (hpeakOut ⟨k, hk⟩).trans <| by
    rw [meterOut_silent hnull hacc hgains _ le_rfl, Vector.getElem_replicate]; rfl
  refine ⟨t, u, hexec, hend, ?_, fun i hi side => ?_, fun hptr j => ?_, fun hptr k => ?_, hother, hbytes⟩
  · rw [← hinZero, ← houtZero]
    exact hu
  · rw [hout i hi side, smixOut_silent hnull hacc hgains hi, outWord_zero]
  · rw [himtr hptr j, hinZero]
    exact Vector.getElem_replicate j.isLt
  · rw [homtr hptr k, houtZero]
    exact Vector.getElem_replicate k.isLt

/-- Settles O36: the ramp from a gain to itself is constant (`ramp_self`). -/
theorem settledGainsMixLinearly : Obligations.SettledGainsMixLinearly := by
  intro s ctx fx hacc hsettled i hi side
  obtain ⟨-, hhi, hin, hout⟩ := smix_accepted hacc
  have hgain : ∀ k : Fin 4, smixGain s ctx i k side = s.args.gin[sideIndex k side] := fun k => by
    rw [smixGain, hsettled]
    exact ramp_self (hin _) hhi hi
  refine ⟨hgain, ?_⟩
  rw [smixOut, hsettled, smixAcc]
  simp only [smixContribution, hgain]
  rw [ramp_self (hout side) hhi hi]
  rfl

/-- Settles O24: an accepted SINIT answers its own acceptance, which writes its context and ends the command. -/
theorem sinitSetsItsContextToOne : Obligations.SinitSetsItsContextToOne := by
  intro s ctx hidle hctx
  have hacc : (Instr.sinit ctx).accepted s = true := by
    simp [Instr.accepted, Instr.wellFormed, countLegal, gainsLegal, regionsLegal, regionsOf, hctx]
  have hsame : (acceptance (.sinit ctx) s).stereo ctx = StereoCtx.init := State.stereo_setStereo_same s ctx _
  refine ⟨_, exec_of_accepted hacc, ?_, ?_, ?_, fun c hc => State.stereo_setStereo_ne s _ hc⟩
  · simp only [acceptance, State.endCommand, ← hidle]; rfl
  · rw [hsame]; decide
  · rw [hsame]; decide

end Sys2Proof.Proofs
end


section
/-! SUPPORT. A running command without a peak detector, from its acceptance through its frames to its completion (R127,
R128); the block of words that its frames write; and the sources that its earlier frames leave alone (R57, R58). -/

namespace Sys2Proof.Machine

/-! ### The frames of an undisturbed command -/

/-- The hidden state of an undisturbed command without a peak detector after its first k frames (R40). -/
def blockRun (i : Instr) (acc : Nat → Vector Word 2) (k : Nat) : Run :=
  { instr := i, frame := k, acc := acc k, maxIn := Vector.replicate 8 0, maxOut := Vector.replicate 2 0,
    fate := .completes, dirty := false }

/-- The machine after the first k frames of an undisturbed command without a peak detector that starts in `s`, where
`mem k` is the memory and `acc k` the accumulators these frames leave. -/
def blockAt (s : State) (i : Instr) (mem : Nat → Memory) (acc : Nat → Vector Word 2) (k : Nat) : State :=
  { s with mem := mem k, run := some (blockRun i acc k) }

theorem blockAt_run (s : State) (i : Instr) (mem : Nat → Memory) (acc : Nat → Vector Word 2) (k : Nat) :
    (blockAt s i mem acc k).run = some (blockRun i acc k) := rfl

section Frames

variable {s : State} {i : Instr} {mem : Nat → Memory} {acc : Nat → Vector Word 2}

/-- An accepted, undisturbed command that runs enters RUNNING before its first frame (R127). -/
theorem exec_blockAt (hruns : i.runs = true) (hacc : i.accepted s = true) (hund : i.undisturbed s = true)
    (hmem : mem 0 = s.mem) (hzero : acc 0 = Vector.replicate 2 0) : exec i s = .next (blockAt s i mem acc 0) := by
  rw [exec_of_accepted_runs hruns hacc, startRun_of_undisturbed hund, blockAt, blockRun, hmem, hzero]

variable (hframe : ∀ k < s.args.n, frameTurn (blockRun i acc k) (blockAt s i mem acc k) = blockAt s i mem acc (k + 1))
include hframe

theorem engineTurns_blockAt {k : Nat} (hk : k ≤ s.args.n) :
    engineTurns k (blockAt s i mem acc 0) = blockAt s i mem acc k := by
  induction k with
  | zero => rfl
  | succ k ih =>
    rw [engineTurns_last, ih (by omega), engineTurn_of_frame (blockAt_run s i mem acc k) rfl hk, hframe k hk]

/-- A command whose frames lead from one machine of `blockAt` to the next ends with the completion of the last (R128). -/
theorem engineTurns_block : engineTurns (s.args.n + 1) (blockAt s i mem acc 0) =
    completeRun (blockRun i acc s.args.n) (blockAt s i mem acc s.args.n) := by
  rw [engineTurns_last, engineTurns_blockAt hframe le_rfl, engineTurn_of_completion (blockAt_run s i mem acc _) rfl le_rfl]

end Frames

/-! ### A block of words in memory -/

/-- Memory after `v 0` to `v (k - 1)` are written to the first k words from `p` on. -/
def Memory.writeBlock (m : Memory) (p : Word) (v : Nat → Word) : Nat → Memory
  | 0 => m
  | k + 1 => (m.writeBlock p v k).writeWord (elemAddr p 4 k) (v k)

section Blocks

variable (m : Memory) {p : Word} {v : Nat → Word}

/-- A block of words leaves every word apart from its own. -/
theorem Memory.readWord_writeBlock_apart {k b : Nat} (h : ∀ l < k, b + 4 ≤ elemAddr p 4 l ∨ elemAddr p 4 l + 4 ≤ b) :
    (m.writeBlock p v k).readWord b = m.readWord b := by
  induction k with
  | zero => rfl
  | succ k ih =>
    rw [Memory.writeBlock, Memory.readWord_writeWord_disjoint _ _ (h k (by omega)), ih fun l hl => h l (by omega)]

/-- A block of words read back. -/
theorem Memory.readWord_writeBlock {i k : Nat} (hi : i < k) : (m.writeBlock p v k).readWord (elemAddr p 4 i) = v i := by
  induction k with
  | zero => omega
  | succ k ih =>
    rw [Memory.writeBlock]
    by_cases hlast : i = k
    · rw [hlast, Memory.readWord_writeWord_same]
    · rw [Memory.readWord_writeWord_disjoint _ _ (by unfold elemAddr; omega), ih (by omega)]

end Blocks

/-! ### Sources read after earlier frames are written -/

theorem dstRegion_reg_ne_srcRegion_reg (a : Args) (k : Fin 2) (slot : Fin 4) {elem elem' per per' mg mg' : Nat}
    {req req' : Bool} : (dstRegion a k elem per req mg).reg ≠ (srcRegion a slot elem' per' req' mg').reg := by
  have hreg : ∀ (k : Fin 2) (slot : Fin 4),
      BitVec.ofNat 32 (0x030 + 4 * k.val) ≠ BitVec.ofNat 32 (0x020 + 4 * slot.val) := by decide
  exact hreg k slot

theorem srcRegion_used {a : Args} {slot : Fin 4} (elem per : Nat) (req : Bool) (mg : Nat) (h : a.inp[slot] ≠ 0) :
    (srcRegion a slot elem per req mg).used = true := by
  simpa [Region.used, srcRegion] using h

/-- No earlier element written shares a byte with an element read: the regions are apart, or they are in place and the
elements go in rising order (R57, R58). -/
theorem laterElem_apart {rs : List Region} (hover : overlaps rs = false) {o r : Region} (ho : o ∈ rs) (hr : r ∈ rs)
    (hreg : o.reg ≠ r.reg) (hout : o.out = true) (hoUsed : o.used = true) (hrUsed : r.used = true)
    (hoElem : 0 < o.elem) (hrElem : 0 < r.elem) {j l : Nat} (hlo : l < o.count) (hjr : j < r.count) (hlj : l < j) :
    elemAddr r.ptr r.elem j + r.elem ≤ elemAddr o.ptr o.elem l ∨
      elemAddr o.ptr o.elem l + o.elem ≤ elemAddr r.ptr r.elem j := by
  rcases elems_disjoint hover ho hr hreg hout hoUsed hrUsed hoElem hrElem hlo hjr with hapart | ⟨-, -, hptr, helem, -⟩
  · exact hapart.symm
  · have hle : r.elem * (l + 1) ≤ r.elem * j := Nat.mul_le_mul_left _ hlj
    rw [Nat.mul_add_one] at hle
    rw [hptr, helem]
    unfold elemAddr
    omega

end Sys2Proof.Machine
end

section
/-! SUPPORT. The machine after each sample and at the end of an undisturbed MMIX (42_mono_mixer.md R107, R108), and the
statements about it and about MINIT (R106). -/

namespace Sys2Proof.Machine

/-- Memory after the first k samples of an MMIX that starts in `s` (R108). -/
def mmixMem (s : State) (ctx : BitVec 4) (fx : Bool) : Nat → Memory :=
  s.mem.writeBlock s.args.out[0] fun i => outWord fx (mmixOut s ctx i)

/-- The accumulators after the first k samples of an MMIX that starts in `s` (log entry 20). -/
def mmixAccs (s : State) (ctx : BitVec 4) : Nat → Vector Word 2
  | 0 => Vector.replicate 2 0
  | k + 1 => (mmixAccs s ctx k).set 0 (mmixAcc s ctx k)

/-- The machine after the first k samples of an undisturbed MMIX that starts in `s`. -/
def mmixAt (s : State) (ctx : BitVec 4) (fx : Bool) : Nat → State :=
  blockAt s (.mmix ctx fx) (mmixMem s ctx fx) (mmixAccs s ctx)

/-- MS[CTX] after an MMIX: the targets (R108). -/
def monoTargets (a : Args) : MonoCtx := { inp := #v[a.gin[0], a.gin[1], a.gin[2], a.gin[3]], out := a.gout[0] }

/-- The machine after an undisturbed MMIX that starts in `s` (R108, R128). -/
def mmixEnd (s : State) (ctx : BitVec 4) (fx : Bool) : State :=
  { s.setMono ctx (monoTargets s.args) with
    mem := mmixMem s ctx fx s.args.n
    done := true
    unseen := outSpans (mmixRegions s.args) ++ s.unseen
    run := none }

theorem monoTargets_inp (a : Args) (k : Fin 4) : (monoTargets a).inp[k] = a.gin[k.val] := by fin_cases k <;> rfl

theorem srcRegion_mem_mmixRegions (a : Args) (k : Fin 4) : srcRegion a k 4 1 false 0 ∈ mmixRegions a := by
  fin_cases k <;> simp [mmixRegions]

section Samples

variable {s : State} {ctx : BitVec 4} {fx : Bool}

/-- A slot's contribution rests on memory at its source word only. -/
theorem mmixContribution_congr {m : Memory} {run : Option Run} {i : Nat} {slot : Fin 4}
    (h : s.args.inp[slot] ≠ 0 →
      m.readWord (elemAddr s.args.inp[slot] 4 i) = s.mem.readWord (elemAddr s.args.inp[slot] 4 i)) :
    mmixContribution { s with mem := m, run := run } ctx i slot = mmixContribution s ctx i slot := by
  unfold mmixContribution
  split_ifs with hnull
  · rfl
  · rw [← h hnull]; rfl

/-- A sample that finds its contributions as they are at the start leaves the machine of the next sample. -/
theorem frameTurn_mmixAt {k : Nat}
    (h : ∀ slot, mmixContribution (mmixAt s ctx fx k) ctx k slot = mmixContribution s ctx k slot) :
    frameTurn (blockRun (.mmix ctx fx) (mmixAccs s ctx) k) (mmixAt s ctx fx k) = mmixAt s ctx fx (k + 1) := by
  have hacc : mmixAcc (mmixAt s ctx fx k) ctx k = mmixAcc s ctx k := by simp only [mmixAcc, h]
  have hout : mmixOut (mmixAt s ctx fx k) ctx k = mmixOut s ctx k := by rw [mmixOut, hacc]; rfl
  simp only [frameTurn, blockRun, mmixFrame, hacc, hout]
  rfl

variable (hover : overlaps (mmixRegions s.args) = false) (hlegal : regionsLegal (mmixRegions s.args) = true)
include hover hlegal

/-- The samples before it leave a sample's contributions as they are at the start (R58). -/
theorem mmixContribution_mmixAt {k : Nat} (hk : k < s.args.n) (slot : Fin 4) :
    mmixContribution (mmixAt s ctx fx k) ctx k slot = mmixContribution s ctx k slot := by
  have hdst : dstRegion s.args 0 4 1 true 0 ∈ mmixRegions s.args := by simp [mmixRegions]
  have hsrc : k < 1 * s.args.n := by omega
  refine mmixContribution_congr fun hslot => Memory.readWord_writeBlock_apart _ fun l hl => ?_
  exact laterElem_apart hover hdst (srcRegion_mem_mmixRegions s.args slot) (dstRegion_reg_ne_srcRegion_reg s.args 0 slot)
    rfl (used_of_required hlegal hdst rfl) (srcRegion_used 4 1 false 0 hslot) (Nat.succ_pos 3) (Nat.succ_pos 3)
    (hl.trans hsrc) hsrc hl

/-- The samples and the completion of an undisturbed MMIX (R128). -/
theorem engineTurns_mmix : engineTurns (s.args.n + 1) (mmixAt s ctx fx 0) = mmixEnd s ctx fx :=
  engineTurns_block fun _ hk => frameTurn_mmixAt (mmixContribution_mmixAt hover hlegal hk)

end Samples

end Sys2Proof.Machine

namespace Sys2Proof.Proofs

open Sys2Proof.Machine

/-- Settles O27: each turn before the last is a sample that finds its sources as they were at the start
(`engineTurns_mmix`), and the output words are one block. -/
theorem mmixMixesTheBlock : Obligations.MmixMixesTheBlock := by
  intro s ctx fx hidle hacc hund
  have hlegal : regionsLegal (mmixRegions s.args) = true := regionsLegal_of_accepted hacc
  have hover : overlaps (mmixRegions s.args) = false := overlaps_of_undisturbed hund
  have hexec : exec (.mmix ctx fx) s = .next (mmixAt s ctx fx 0) := exec_blockAt rfl hacc hund rfl rfl
  have hend : engineTurns (s.args.n + 1) (mmixAt s ctx fx 0) = mmixEnd s ctx fx := engineTurns_mmix hover hlegal
  have hsame : (mmixEnd s ctx fx).mono ctx = monoTargets s.args := State.mono_setMono_same s ctx _
  refine ⟨_, _, hexec, rfl, hend, ?_, fun i hi => Memory.readWord_writeBlock _ hi, fun k => ?_, ?_,
    fun c hc => State.mono_setMono_ne s _ hc, fun a ha => ?_⟩
  · rw [mmixEnd, ← hidle]; rfl
  · rw [hsame, monoTargets_inp]
  · rw [hsame]; rfl
  · rw [← hend]
    exact exec_turns_readByte hidle hexec _ ha

/-- Settles O25: an accepted MINIT answers its own acceptance, which writes its context and ends the command. -/
theorem minitSetsItsContextToOne : Obligations.MinitSetsItsContextToOne := by
  intro s ctx hidle hctx
  have hacc : (Instr.minit ctx).accepted s = true := by
    simp [Instr.accepted, Instr.wellFormed, countLegal, gainsLegal, regionsLegal, regionsOf, hctx]
  have hsame : (acceptance (.minit ctx) s).mono ctx = MonoCtx.init := State.mono_setMono_same s ctx _
  refine ⟨_, exec_of_accepted hacc, ?_, ?_, ?_, fun c hc => State.mono_setMono_ne s _ hc⟩
  · simp only [acceptance, State.endCommand, ← hidle]; rfl
  · rw [hsame]; decide
  · rw [hsame]; rfl

end Sys2Proof.Proofs
end

section
/-! SUPPORT. The machine after each word and at the end of an undisturbed FXENC or FXDEC (43_fixed_point.md R111, R112), and
the statements about them. -/

namespace Sys2Proof.Machine

/-- Memory after the first k words of a converter of words by `g` that starts in `s` (R111, R112). -/
def convertMem (g : Word → Word) (s : State) : Nat → Memory :=
  s.mem.writeBlock s.args.out[0] fun j => g (s.mem.readWord (elemAddr s.args.inp[0] 4 j))

/-- The machine after the first k words of an undisturbed converter `i` of words by `g` that starts in `s`. -/
def convertAt (i : Instr) (g : Word → Word) (s : State) : Nat → State :=
  blockAt s i (convertMem g s) fun _ => Vector.replicate 2 0

/-- The machine after an undisturbed converter `i` of words by `g` that starts in `s` (R128). -/
def convertEnd (i : Instr) (g : Word → Word) (s : State) : State :=
  { s with
    mem := convertMem g s s.args.n
    done := true
    unseen := outSpans (regionsOf i s.args) ++ s.unseen
    run := none }

/-- `i` runs, uses IN0 and OUT0, writes `g` of a source word in each frame and nothing at its completion. -/
structure Converts (i : Instr) (g : Word → Word) : Prop where
  runs : i.runs = true
  regions (a : Args) : regionsOf i a = [srcRegion a 0 4 1 true 0, dstRegion a 0 4 1 true 0]
  frame {r : Run} (s : State) (hr : r.instr = i) : frameTurn r s = s.advance r (s.mem.writeWord
    (elemAddr s.args.out[0] 4 r.frame) (g (s.mem.readWord (elemAddr s.args.inp[0] 4 r.frame))))
  completion {r : Run} (s : State) (hr : r.instr = i) : completionWrites r s = s

theorem converts_fxenc : Converts .fxenc fxEnc where
  runs := rfl
  regions _ := rfl
  frame s hr := by rw [frameTurn, hr]; rfl
  completion s hr := by rw [completionWrites, hr]

theorem converts_fxdec : Converts .fxdec fun q => b32 (fxDec q) where
  runs := rfl
  regions _ := rfl
  frame s hr := by rw [frameTurn, hr]; rfl
  completion s hr := by rw [completionWrites, hr]

section Words

variable {i : Instr} {g : Word → Word} {s : State} (hconv : Converts i g)
  (hover : overlaps (regionsOf i s.args) = false) (hlegal : regionsLegal (regionsOf i s.args) = true)
include hconv hover hlegal

/-- The words before it leave a source word as it is at the start, in place or not (R57, R58). -/
theorem readWord_convertMem_source {k : Nat} (hk : k < s.args.n) :
    (convertMem g s k).readWord (elemAddr s.args.inp[0] 4 k) = s.mem.readWord (elemAddr s.args.inp[0] 4 k) := by
  rw [hconv.regions] at hover hlegal
  have hdst : dstRegion s.args 0 4 1 true 0 ∈ [srcRegion s.args 0 4 1 true 0, dstRegion s.args 0 4 1 true 0] := by simp
  have hsrc : srcRegion s.args 0 4 1 true 0 ∈ [srcRegion s.args 0 4 1 true 0, dstRegion s.args 0 4 1 true 0] := by simp
  have hcount : k < 1 * s.args.n := by omega
  exact Memory.readWord_writeBlock_apart _ fun l hl => laterElem_apart hover hdst hsrc
    (dstRegion_reg_ne_srcRegion_reg s.args 0 0) rfl (used_of_required hlegal hdst rfl) (used_of_required hlegal hsrc rfl)
    (Nat.succ_pos 3) (Nat.succ_pos 3) (hl.trans hcount) hcount hl

theorem frameTurn_convertAt {k : Nat} (hk : k < s.args.n) :
    frameTurn (blockRun i (fun _ => Vector.replicate 2 0) k) (convertAt i g s k) = convertAt i g s (k + 1) := by
  rw [hconv.frame _ rfl]
  change (convertAt i g s k).advance _ ((convertMem g s k).writeWord (elemAddr s.args.out[0] 4 k)
    (g ((convertMem g s k).readWord (elemAddr s.args.inp[0] 4 k)))) = _
  rw [readWord_convertMem_source hconv hover hlegal hk]
  rfl

/-- The words and the completion of an undisturbed converter (R128). -/
theorem engineTurns_convert : engineTurns (s.args.n + 1) (convertAt i g s 0) = convertEnd i g s := by
  rw [convertAt, engineTurns_block fun _ hk => frameTurn_convertAt hconv hover hlegal hk, completeRun,
    hconv.completion _ rfl]
  rfl

end Words

/-- An accepted, undisturbed converter leaves every output word `g` of its input word, in place or not, and nothing else
changed but DONE. -/
theorem exec_convert {i : Instr} {g : Word → Word} (hconv : Converts i g) {s : State} (hidle : s.run = none)
    (hacc : i.accepted s = true) (hund : i.undisturbed s = true) :
    ∃ t m, exec i s = .next t ∧ t.busy = true ∧
      engineTurns (s.args.n + 1) t =
        { s with mem := m, done := true, unseen := outSpans (regionsOf i s.args) ++ s.unseen } ∧
      (∀ j, j < s.args.n →
        m.readWord (elemAddr s.args.out[0] 4 j) = g (s.mem.readWord (elemAddr s.args.inp[0] 4 j))) ∧
      ∀ a, inSpans (outSpans (regionsOf i s.args)) a = false → m.readByte a = s.mem.readByte a := by
  have hexec : exec i s = .next (convertAt i g s 0) := exec_blockAt hconv.runs hacc hund rfl rfl
  have hend := engineTurns_convert hconv (overlaps_of_undisturbed hund) (regionsLegal_of_accepted hacc)
  refine ⟨_, (convertEnd i g s).mem, hexec, rfl, ?_, fun j hj => Memory.readWord_writeBlock _ hj, fun a ha => ?_⟩
  · rw [hend, convertEnd, ← hidle]
  · rw [← hend]
    exact exec_turns_readByte hidle hexec _ ha

end Sys2Proof.Machine

namespace Sys2Proof.Proofs

open Sys2Proof.Machine

/-- Settles O28: FXENC is the converter by FxEnc. -/
theorem fxencEncodesEveryWord : Obligations.FxencEncodesEveryWord :=
  fun _ hidle hacc hund => exec_convert converts_fxenc hidle hacc hund

/-- Settles O29: FXDEC is the converter by FxDec. -/
theorem fxdecDecodesEveryWord : Obligations.FxdecDecodesEveryWord :=
  fun _ hidle hacc hund => exec_convert converts_fxdec hidle hacc hund

end Sys2Proof.Proofs
end

section
/-! SUPPORT. 8.24 values (40_datapath.md R90, R91) and the round trip of 43_fixed_point.md R113: in [-128, 128) encoding does
not saturate, and decoding rounds only where |q| ≥ 2^24. -/

namespace Sys2Proof.Machine

/-- A finite value has its encoding's sign and the magnitude of its bits 30:0. -/
theorem of_f32_fin {f : Word} {neg : Bool} {mag : Nat} (hf : f32 f = .fin neg mag) :
    magBits f < 0x7F800000 ∧ f.msb = neg ∧ magnitude (magBits f) = mag := by
  rw [f32_eq] at hf
  split_ifs at hf with hfin
  exact ⟨hfin, by simpa using hf⟩

theorem valueOf_of_f32_fin {f : Word} {neg : Bool} {mag : Nat} (hf : f32 f = .fin neg mag) :
    valueOf f = signed neg mag := by
  rw [valueOf, hf]

theorem natAbs_signed (neg : Bool) (m : Nat) : (signed neg m).natAbs = m := by
  cases neg
  · rfl
  · exact Int.natAbs_neg m

/-! ### Decoding (R91) -/

/-- FxDec is exact where |q| < 2^24, a significand of the format. -/
theorem valueOf_fxDec_of_lt {q : Word} (hq : q.toInt.natAbs < 2 ^ 24) :
    valueOf (fxDec q) * 2 ^ 24 = q.toInt * 2 ^ 149 := by
  obtain ⟨n, hn, hmag⟩ := exists_finite_magnitude (e := 125) hq.le (by norm_num)
  exact valueOf_fromFixed (frac := 24) hn (by rw [hmag]; ring)

/-- FxDec is exact where some encoding is; an infinity or a NaN would be exact for 0 only. -/
theorem valueOf_fxDec_of_exact {q b : Word} (hb : valueOf b * 2 ^ 24 = q.toInt * 2 ^ 149) :
    valueOf (fxDec q) * 2 ^ 24 = q.toInt * 2 ^ 149 := by
  by_cases hfin : magBits b < 0x7F800000
  · have habs := natAbs_signed b.msb (magnitude (magBits b))
    rw [← valueOf_of_finite hfin] at habs
    exact valueOf_fromFixed (frac := 24) hfin (by omega)
  · have hzero : valueOf b = 0 := by
      rw [valueOf, f32_eq, if_neg hfin]
      split_ifs
      · rfl
      · rfl
    exact valueOf_fxDec_of_lt (by omega)

/-! ### Encoding in [-128, 128) (R90) -/

/-- FxEnc's product rounded, in units of 2^-149: it errs by at most half of 2^-24. -/
theorem rneDiv_fixed_spec (mag : Nat) :
    2 * mag ≤ 2 * (rneDiv (mag * 2 ^ 24) (2 ^ 149) * 2 ^ 125) + 2 ^ 125 ∧
    2 * (rneDiv (mag * 2 ^ 24) (2 ^ 149) * 2 ^ 125) ≤ 2 * mag + 2 ^ 125 := by
  obtain ⟨hlow, hhigh, -⟩ := rneDiv_spec (mag * 2 ^ 24) (den := 2 ^ 149) (by norm_num)
  generalize rneDiv (mag * 2 ^ 24) (2 ^ 149) = r at *
  omega

section RoundTrip

variable {f : Word} {neg : Bool} {mag : Nat} (hf : f32 f = .fin neg mag)
include hf

/-- From 1/2 on the last bit of a significand weighs at least 2^-24. -/
theorem dvd_or_lt_of_f32_fin : 2 ^ 125 ∣ mag ∨ mag < 2 ^ 148 := by
  obtain ⟨-, -, rfl⟩ := of_f32_fin hf
  rcases multiple_or_lt_of_weight 125 (magBits f) with ⟨j, hj⟩ | ⟨-, hlt⟩
  · exact .inl ⟨j, by rw [hj, Nat.mul_comm]⟩
  · exact .inr (by omega)

variable (hlo : -(2 : Int) ^ 156 ≤ signed neg mag) (hhi : signed neg mag < 2 ^ 156)
include hlo hhi

/-- In [-128, 128) FxEnc rounds and does not saturate: the values that would round to 128 are not in the format. -/
theorem toInt_fxEnc : (fxEnc f).toInt = signed neg (rneDiv (mag * 2 ^ 24) (2 ^ 149)) := by
  have henc : (fxEnc f).toInt = _ := toInt_toFixed (w := 32) (by norm_num) 24 hf
  obtain ⟨-, hhigh⟩ := rneDiv_fixed_spec mag
  have hmul := dvd_or_lt_of_f32_fin hf
  rw [henc]
  generalize rneDiv (mag * 2 ^ 24) (2 ^ 149) = r at *
  cases neg
  · rw [signed_false] at *
    omega
  · rw [signed_true] at *
    omega

/-- Encoding errs by at most half of 2^-24. -/
theorem natAbs_toInt_fxEnc_sub : ((fxEnc f).toInt * 2 ^ 125 - signed neg mag).natAbs ≤ 2 ^ 124 := by
  obtain ⟨hlow, hhigh⟩ := rneDiv_fixed_spec mag
  rw [toInt_fxEnc hf hlo hhi]
  generalize rneDiv (mag * 2 ^ 24) (2 ^ 149) = r at *
  have hsign := natAbs_signed_sub neg r mag (2 ^ 125)
  omega

/-- A multiple of 2^-24 is encoded exactly. -/
theorem toInt_fxEnc_of_dvd (hdvd : 2 ^ 125 ∣ mag) : (fxEnc f).toInt * 2 ^ 125 = signed neg mag := by
  obtain ⟨hlow, hhigh⟩ := rneDiv_fixed_spec mag
  rw [toInt_fxEnc hf hlo hhi]
  generalize rneDiv (mag * 2 ^ 24) (2 ^ 149) = r at *
  have hexact : r * 2 ^ 125 = mag := by omega
  have hsign := signed_mul neg r (2 ^ 125)
  rw [hexact] at hsign
  exact_mod_cast hsign

/-- What FxEnc gives is decoded exactly: it is the value itself, or it is below 2^24. -/
theorem valueOf_fxDec_fxEnc : valueOf (fxDec (fxEnc f)) = (fxEnc f).toInt * 2 ^ 125 := by
  have hexact : valueOf (fxDec (fxEnc f)) * 2 ^ 24 = (fxEnc f).toInt * 2 ^ 149 := by
    rcases dvd_or_lt_of_f32_fin hf with hdvd | hlt
    · have hvalue := toInt_fxEnc_of_dvd hf hlo hhi hdvd
      rw [← valueOf_of_f32_fin hf] at hvalue
      exact valueOf_fxDec_of_exact (b := f) (by omega)
    · have herr := natAbs_toInt_fxEnc_sub hf hlo hhi
      have habs := natAbs_signed neg mag
      exact valueOf_fxDec_of_lt (by omega)
  omega

/-- The round trip returns a multiple of 2^-24 with its sign, which a zero loses. -/
theorem fxDec_fxEnc_of_dvd (hdvd : 2 ^ 125 ∣ mag) : fxDec (fxEnc f) = if mag = 0 then 0 else f := by
  obtain ⟨hfin, hmsb, hmag⟩ := of_f32_fin hf
  have habs := natAbs_signed neg mag
  rw [← toInt_fxEnc_of_dvd hf hlo hhi hdvd] at habs
  have hdec : fxDec (fxEnc f) = pack (decide ((fxEnc f).toInt < 0)) (magBits f) :=
    fromFixed_exact (frac := 24) hfin (by omega)
  rw [hdec]
  split_ifs with hzero
  · rw [(magnitude_eq_zero_iff _).1 (hmag.trans hzero), decide_eq_false (by omega)]
    rfl
  · have hsign : decide ((fxEnc f).toInt < 0) = neg := by
      have hexact := toInt_fxEnc_of_dvd hf hlo hhi hdvd
      cases neg
      · rw [signed_false] at hexact
        exact decide_eq_false (by omega)
      · rw [signed_true] at hexact
        exact decide_eq_true (by omega)
    rw [hsign, ← hmsb, pack_magBits]

end RoundTrip

end Sys2Proof.Machine

namespace Sys2Proof.Proofs

open Sys2Proof.Machine

/-- Settles O59: FxDec rounds once (`roundsTo_pack`); and what FxEnc gives in [-128, 128) is decoded exactly
(`valueOf_fxDec_fxEnc`), so that the round trip errs as the encoding does. -/
theorem fixedPointRoundTrip : Obligations.FixedPointRoundTrip := by
  refine ⟨fun q => ⟨roundsTo_pack _ _ (by norm_num), ?_⟩, rfl, rfl, rfl,
    fun f neg mag hf hlo hhi => ⟨fxDec_fxEnc_of_dvd hf hlo hhi, fun hmag => ?_, ?_⟩⟩
  · rintro (hlt | ⟨b, hb⟩)
    · exact valueOf_fxDec_of_lt hlt
    · exact valueOf_fxDec_of_exact hb
  · exact (dvd_or_lt_of_f32_fin hf).resolve_right (by omega)
  · rw [valueOf_fxDec_fxEnc hf hlo hhi]
    exact natAbs_toInt_fxEnc_sub hf hlo hhi

end Sys2Proof.Proofs
end

section
/-! SUPPORT. The machine after each frame and at the end of an undisturbed sample format converter (44_format_converters.md
R115 to R119), and the statements about them. The five differ in the sizes of their elements, in how their buffers lay out
the samples of a frame, and in the function that takes a source sample to an output sample. -/

namespace Sys2Proof.Machine

/-! ### Elements and their buffers (R46, R47) -/

/-- A way to read and write elements of one size: an access touches the bytes of its element and no other. -/
structure Elem (α : Type) where
  size : Nat
  read : Memory → Nat → α
  write : Memory → Nat → α → Memory
  size_pos : 0 < size
  read_congr {m m' : Memory} {a : Nat} (h : ∀ b, a ≤ b → b < a + size → m.readByte b = m'.readByte b) :
    read m a = read m' a
  read_write_same (m : Memory) (a : Nat) (v : α) : read (write m a v) a = v
  readByte_write_outside (m : Memory) {a b : Nat} (v : α) (h : b < a ∨ a + size ≤ b) :
    (write m a v).readByte b = m.readByte b

/-- S16 elements (R46). -/
def halfElem : Elem Half where
  size := 2
  read := Memory.readHalf
  write := Memory.writeHalf
  size_pos := Nat.succ_pos 1
  read_congr := Memory.readHalf_congr
  read_write_same := Memory.readHalf_writeHalf_same
  readByte_write_outside := Memory.readByte_writeHalf_outside

/-- F32 and 8.24 elements (R46). -/
def wordElem : Elem Word where
  size := 4
  read := Memory.readWord
  write := Memory.writeWord
  size_pos := Nat.succ_pos 3
  read_congr := Memory.readWord_congr
  read_write_same := Memory.readWord_writeWord_same
  readByte_write_outside := Memory.readByte_writeWord_outside

/-- An element read beside a written one. -/
theorem Elem.read_write_apart {α β : Type} (x : Elem α) (y : Elem β) (m : Memory) {a b : Nat} (v : β)
    (h : b + x.size ≤ a ∨ a + y.size ≤ b) : x.read (y.write m a v) b = x.read m b :=
  x.read_congr fun _ _ _ => y.readByte_write_outside m v (by omega)

theorem elemAddr_add_size_le (p : Word) (size : Nat) {j l : Nat} (h : j < l) :
    elemAddr p size j + size ≤ elemAddr p size l := by
  have hle : size * (j + 1) ≤ size * l := Nat.mul_le_mul_left _ h
  rw [Nat.mul_add_one] at hle
  unfold elemAddr
  omega

/-- Different elements of one buffer share no byte. -/
theorem elemAddr_apart (p : Word) (size : Nat) {j l : Nat} (h : j ≠ l) :
    elemAddr p size j + size ≤ elemAddr p size l ∨ elemAddr p size l + size ≤ elemAddr p size j :=
  (Nat.lt_or_gt_of_ne h).imp (elemAddr_add_size_le p size) (elemAddr_add_size_le p size)

/-- OUT0 and OUT1 are different registers. -/
theorem dstRegion_reg_ne (a : Args) {k k' : Fin 2} (elem per mg : Nat) (req : Bool) (h : k ≠ k') :
    (dstRegion a k elem per req mg).reg ≠ (dstRegion a k' elem per req mg).reg := by
  have hreg : ∀ k k' : Fin 2, k ≠ k' →
      BitVec.ofNat 32 (0x030 + 4 * k.val) ≠ BitVec.ofNat 32 (0x030 + 4 * k'.val) := by decide
  exact hreg k k' h

/-! ### The two samples of a frame in their buffers (R151) -/

/-- Whether the two samples of a frame lie by turns in one buffer or each in a buffer of its own. -/
inductive Layout where
  | interleaved | planar

/-- The elements a frame has in each buffer. -/
def Layout.perFrame : Layout → Nat
  | .interleaved => 2
  | .planar => 1

/-- The buffer that holds a side. -/
def Layout.buffer : Layout → Fin 2 → Fin 2
  | .interleaved, _ => 0
  | .planar, side => side

/-- The element of its buffer that a sample is. -/
def Layout.index : Layout → Nat → Fin 2 → Nat
  | .interleaved, i, side => 2 * i + side.val
  | .planar, i, _ => i

theorem Layout.index_lt (l : Layout) {i n : Nat} (hi : i < n) (side : Fin 2) : l.index i side < l.perFrame * n := by
  cases l <;> simp only [index, perFrame] <;> omega

/-- Different samples of one buffer are different elements. -/
theorem Layout.index_ne (l : Layout) {i j : Nat} {side side' : Fin 2} (hne : i ≠ j ∨ side ≠ side')
    (hbuffer : l.buffer side = l.buffer side') : l.index i side ≠ l.index j side' := by
  cases l with
  | interleaved => simp only [index]; omega
  | planar => exact hne.resolve_right (not_not_intro hbuffer)

/-- What holds of both samples of every frame holds of every element of an interleaved buffer: element j is side j % 2 of
frame j / 2. -/
theorem forall_interleaved {P : Nat → Prop} {n : Nat} (h : ∀ i < n, ∀ side : Fin 2, P (2 * i + side.val)) :
    ∀ j < 2 * n, P j := fun j hj =>
  Nat.div_add_mod j 2 ▸ h (j / 2) (by omega) ⟨j % 2, Nat.mod_lt j two_pos⟩

/-- The left sample of a frame in an interleaved buffer. -/
theorem elemAddr_left (p : Word) (size i : Nat) : elemAddr p size (2 * i) = p.toNat + 2 * size * i := by
  rw [elemAddr, Nat.mul_left_comm, Nat.mul_assoc]

/-- The right sample of a frame in an interleaved buffer. -/
theorem elemAddr_right (p : Word) (size i : Nat) : elemAddr p size (2 * i + 1) = p.toNat + 2 * size * i + size := by
  rw [← elemAddr_left, elemAddr, elemAddr, Nat.mul_add_one, Nat.add_assoc]

/-! ### A converter of frames -/

/-- How a converter reads the two samples of a frame, converts them and writes them. -/
structure FrameConverter (α β : Type) where
  src : Elem α
  dst : Elem β
  srcLayout : Layout
  dstLayout : Layout
  /-- Elements of margin behind a source buffer (R56). -/
  srcMargin : Nat
  /-- Elements of margin behind an output buffer (R56). -/
  dstMargin : Nat
  convert : α → β

namespace FrameConverter

variable {α β : Type} (c : FrameConverter α β) (a : Args)

/-- The source buffer of a side. -/
def source (side : Fin 2) : Region :=
  srcRegion a ((c.srcLayout.buffer side).castLE (by decide)) c.src.size c.srcLayout.perFrame true c.srcMargin

/-- The output buffer of a side. -/
def dest (side : Fin 2) : Region :=
  dstRegion a (c.dstLayout.buffer side) c.dst.size c.dstLayout.perFrame true c.dstMargin

/-- Where a source sample lies. -/
def srcAddr (k : Nat) (side : Fin 2) : Nat := elemAddr (c.source a side).ptr c.src.size (c.srcLayout.index k side)

/-- Where an output sample lies. -/
def dstAddr (k : Nat) (side : Fin 2) : Nat := elemAddr (c.dest a side).ptr c.dst.size (c.dstLayout.index k side)

/-- The output sample that memory gives for a frame and side. -/
def sample (m : Memory) (k : Nat) (side : Fin 2) : β := c.convert (c.src.read m (c.srcAddr a k side))

/-- Memory after the two samples of frame k are written. -/
def writeFrame (m : Memory) (k : Nat) (v : Fin 2 → β) : Memory :=
  c.dst.write (c.dst.write m (c.dstAddr a k 0) (v 0)) (c.dstAddr a k 1) (v 1)

/-- Memory after the first k frames of a converter that starts in `m`. -/
def framesMem (m : Memory) : Nat → Memory
  | 0 => m
  | k + 1 => c.writeFrame a (framesMem m k) k (c.sample a m k)

/-- The frames leave every element apart from their output samples. -/
theorem read_framesMem_apart {γ : Type} (x : Elem γ) (m : Memory) {k b : Nat}
    (h : ∀ l < k, ∀ side, b + x.size ≤ c.dstAddr a l side ∨ c.dstAddr a l side + c.dst.size ≤ b) :
    x.read (c.framesMem a m k) b = x.read m b := by
  induction k with
  | zero => rfl
  | succ k ih =>
    rw [framesMem, writeFrame, x.read_write_apart c.dst _ _ (h k (by omega) 1),
      x.read_write_apart c.dst _ _ (h k (by omega) 0), ih fun l hl => h l (by omega)]

end FrameConverter

/-- The machine after the first k frames of an undisturbed converter `i` that does the frames of `c` and starts in `s`. -/
def framesAt {α β : Type} (i : Instr) (c : FrameConverter α β) (s : State) : Nat → State :=
  blockAt s i (c.framesMem s.args s.mem) fun _ => Vector.replicate 2 0

/-- The machine after an undisturbed converter `i` that does the frames of `c` and starts in `s` (R128). -/
def framesEnd {α β : Type} (i : Instr) (c : FrameConverter α β) (s : State) : State :=
  { s with
    mem := c.framesMem s.args s.mem s.args.n
    done := true
    unseen := outSpans (regionsOf i s.args) ++ s.unseen
    run := none }

/-- `i` runs, has the buffers of `c`, never in place, does `c`'s samples in each frame and writes nothing at its
completion. -/
structure ConvertsFrames {α β : Type} (i : Instr) (c : FrameConverter α β) : Prop where
  runs : i.runs = true
  source_mem (a : Args) (side : Fin 2) : c.source a side ∈ regionsOf i a
  dest_mem (a : Args) (side : Fin 2) : c.dest a side ∈ regionsOf i a
  not_in_place : c.dst.size ≠ c.src.size ∨ c.dstLayout.perFrame ≠ c.srcLayout.perFrame
  frame {r : Run} (s : State) (hr : r.instr = i) :
    frameTurn r s = s.advance r (c.writeFrame s.args s.mem r.frame (c.sample s.args s.mem r.frame))
  completion {r : Run} (s : State) (hr : r.instr = i) : completionWrites r s = s

section Frames

variable {α β : Type} {i : Instr} {c : FrameConverter α β} (hconv : ConvertsFrames i c)
include hconv

section Apart

variable {a : Args} (hlegal : regionsLegal (regionsOf i a) = true) (hover : overlaps (regionsOf i a) = false) {k l : Nat}
include hlegal hover

/-- Different output samples share no byte: they are different elements of a buffer or lie in different ones (R57). -/
theorem dstAddr_apart {side side' : Fin 2} (hk : k < a.n) (hl : l < a.n) (hne : k ≠ l ∨ side ≠ side') :
    c.dstAddr a k side + c.dst.size ≤ c.dstAddr a l side' ∨ c.dstAddr a l side' + c.dst.size ≤ c.dstAddr a k side := by
  by_cases hbuffer : c.dstLayout.buffer side = c.dstLayout.buffer side'
  · have hdest : c.dest a side = c.dest a side' := by rw [FrameConverter.dest, hbuffer]; rfl
    rw [FrameConverter.dstAddr, FrameConverter.dstAddr, hdest]
    exact elemAddr_apart _ _ (c.dstLayout.index_ne hne hbuffer)
  · have hmem := hconv.dest_mem a
    exact outElems_disjoint hover (hmem side) (hmem side') (dstRegion_reg_ne a _ _ _ _ hbuffer) rfl
      (used_of_required hlegal (hmem side) rfl) (used_of_required hlegal (hmem side') rfl) c.dst.size_pos c.dst.size_pos
      (c.dstLayout.index_lt hk side) (c.dstLayout.index_lt hl side') rfl

/-- No output sample shares a byte with a source sample: the buffers are never in place (R57). -/
theorem srcAddr_apart (side side' : Fin 2) (hk : k < a.n) (hl : l < a.n) :
    c.srcAddr a k side + c.src.size ≤ c.dstAddr a l side' ∨ c.dstAddr a l side' + c.dst.size ≤ c.srcAddr a k side := by
  have hsource := hconv.source_mem a side
  have hdest := hconv.dest_mem a side'
  rcases elems_disjoint hover hdest hsource (dstRegion_reg_ne_srcRegion_reg a _ _) rfl
    (used_of_required hlegal hdest rfl) (used_of_required hlegal hsource rfl) c.dst.size_pos c.src.size_pos
    (c.dstLayout.index_lt hl side') (c.srcLayout.index_lt hk side) with hapart | ⟨-, -, -, helem, hcount⟩
  · exact hapart.symm
  · have hperFrame : c.dstLayout.perFrame = c.srcLayout.perFrame := Nat.eq_of_mul_eq_mul_right (by omega) hcount
    exact absurd hperFrame (hconv.not_in_place.resolve_left (not_not_intro helem))

/-- From its own frame on an output sample holds what that frame wrote. -/
theorem read_framesMem (m : Memory) (hkl : k < l) (hl : l ≤ a.n) (side : Fin 2) :
    c.dst.read (c.framesMem a m l) (c.dstAddr a k side) = c.sample a m k side := by
  have happart {l : Nat} (hl : l < a.n) (side side' : Fin 2) (hne : k ≠ l ∨ side ≠ side') :=
    dstAddr_apart hconv hlegal hover (by omega) hl hne
  induction l with
  | zero => omega
  | succ l ih =>
    rw [FrameConverter.framesMem, FrameConverter.writeFrame]
    by_cases hlast : k = l
    · subst hlast
      match side with
      | 0 => rw [c.dst.read_write_apart c.dst _ _ (happart hl 0 1 (.inr nofun)), c.dst.read_write_same]
      | 1 => rw [c.dst.read_write_same]
    · rw [c.dst.read_write_apart c.dst _ _ (happart hl side 1 (.inl hlast)),
        c.dst.read_write_apart c.dst _ _ (happart hl side 0 (.inl hlast)), ih (by omega) (by omega)]

/-- The frames before it leave the samples of a frame as they are at the start. -/
theorem sample_framesMem (m : Memory) (hk : k < a.n) : c.sample a (c.framesMem a m k) k = c.sample a m k := by
  funext side
  rw [FrameConverter.sample, c.read_framesMem_apart a c.src m fun l hl side' =>
    srcAddr_apart hconv hlegal hover side side' hk (hl.trans hk)]
  rfl

end Apart

section Turns

variable {s : State} (hlegal : regionsLegal (regionsOf i s.args) = true) (hover : overlaps (regionsOf i s.args) = false)
include hlegal hover

theorem frameTurn_framesAt {k : Nat} (hk : k < s.args.n) :
    frameTurn (blockRun i (fun _ => Vector.replicate 2 0) k) (framesAt i c s k) = framesAt i c s (k + 1) := by
  rw [hconv.frame _ rfl]
  change (framesAt i c s k).advance _ (c.writeFrame s.args (c.framesMem s.args s.mem k) k
    (c.sample s.args (c.framesMem s.args s.mem k) k)) = _
  rw [sample_framesMem hconv hlegal hover s.mem hk]
  rfl

/-- The frames and the completion of an undisturbed converter (R128). -/
theorem engineTurns_convertFrames : engineTurns (s.args.n + 1) (framesAt i c s 0) = framesEnd i c s := by
  rw [framesAt, engineTurns_block fun _ hk => frameTurn_framesAt hconv hlegal hover hk, completeRun,
    hconv.completion _ rfl]
  rfl

end Turns

/-- An accepted, undisturbed converter of frames leaves every output sample the conversion of its source sample, and nothing
else changed but DONE. -/
theorem exec_convertFrames {s : State} (hidle : s.run = none) (hacc : i.accepted s = true)
    (hund : i.undisturbed s = true) :
    ∃ t m, exec i s = .next t ∧ t.busy = true ∧
      engineTurns (s.args.n + 1) t =
        { s with mem := m, done := true, unseen := outSpans (regionsOf i s.args) ++ s.unseen } ∧
      (∀ k < s.args.n, ∀ side, c.dst.read m (c.dstAddr s.args k side) = c.sample s.args s.mem k side) ∧
      ∀ a, inSpans (outSpans (regionsOf i s.args)) a = false → m.readByte a = s.mem.readByte a := by
  have hlegal := regionsLegal_of_accepted hacc
  have hover := overlaps_of_undisturbed hund
  have hexec : exec i s = .next (framesAt i c s 0) := exec_blockAt hconv.runs hacc hund rfl rfl
  have hend := engineTurns_convertFrames hconv hlegal hover
  refine ⟨_, (framesEnd i c s).mem, hexec, rfl, ?_, fun k hk => read_framesMem hconv hlegal hover s.mem hk le_rfl,
    fun a ha => ?_⟩
  · rw [hend, framesEnd, ← hidle]
  · rw [← hend]
    exact exec_turns_readByte hidle hexec _ ha

end Frames

/-! ### The five converters -/

/-- F2S16 (R115). -/
def f2s16Converter : FrameConverter Word Half where
  src := wordElem
  dst := halfElem
  srcLayout := .interleaved
  dstLayout := .interleaved
  srcMargin := 16
  dstMargin := 16
  convert := s16Enc

/-- P2S16 (R116). -/
def p2s16Converter : FrameConverter Word Half where
  src := wordElem
  dst := halfElem
  srcLayout := .planar
  dstLayout := .interleaved
  srcMargin := 8
  dstMargin := 16
  convert := s16Enc

/-- S162F (R117). -/
def s162fConverter : FrameConverter Half Word where
  src := halfElem
  dst := wordElem
  srcLayout := .interleaved
  dstLayout := .interleaved
  srcMargin := 16
  dstMargin := 16
  convert h := b32 (s16Dec h)

/-- ILV (R118). -/
def ilvConverter : FrameConverter Word Word where
  src := wordElem
  dst := wordElem
  srcLayout := .planar
  dstLayout := .interleaved
  srcMargin := 0
  dstMargin := 0
  convert := id

/-- DILV (R119). -/
def dilvConverter : FrameConverter Word Word where
  src := wordElem
  dst := wordElem
  srcLayout := .interleaved
  dstLayout := .planar
  srcMargin := 0
  dstMargin := 0
  convert := id

theorem convertsFrames_f2s16 : ConvertsFrames .f2s16 f2s16Converter where
  runs := rfl
  source_mem _ _ := .head _
  dest_mem _ _ := .tail _ (.head _)
  not_in_place := .inl (by decide)
  frame s hr := by rw [frameTurn, hr]; rfl
  completion s hr := by rw [completionWrites, hr]

theorem convertsFrames_p2s16 : ConvertsFrames .p2s16 p2s16Converter where
  runs := rfl
  source_mem
    | _, 0 => .head _
    | _, 1 => .tail _ (.head _)
  dest_mem _ _ := .tail _ (.tail _ (.head _))
  not_in_place := .inl (by decide)
  frame s hr := by rw [frameTurn, hr]; rfl
  completion s hr := by rw [completionWrites, hr]

theorem convertsFrames_s162f : ConvertsFrames .s162f s162fConverter where
  runs := rfl
  source_mem _ _ := .head _
  dest_mem _ _ := .tail _ (.head _)
  not_in_place := .inl (by decide)
  frame s hr := by rw [frameTurn, hr]; rfl
  completion s hr := by rw [completionWrites, hr]

theorem convertsFrames_ilv : ConvertsFrames .ilv ilvConverter where
  runs := rfl
  source_mem
    | _, 0 => .head _
    | _, 1 => .tail _ (.head _)
  dest_mem _ _ := .tail _ (.tail _ (.head _))
  not_in_place := .inr (by decide)
  frame s hr := by rw [frameTurn, hr]; rfl
  completion s hr := by rw [completionWrites, hr]

theorem convertsFrames_dilv : ConvertsFrames .dilv dilvConverter where
  runs := rfl
  source_mem _ _ := .head _
  dest_mem
    | _, 0 => .tail _ (.head _)
    | _, 1 => .tail _ (.tail _ (.head _))
  not_in_place := .inr (by decide)
  frame s hr := by rw [frameTurn, hr]; rfl
  completion s hr := by rw [completionWrites, hr]

end Sys2Proof.Machine

namespace Sys2Proof.Proofs

open Sys2Proof.Machine

/-- Settles O30: F2S16 is the converter of interleaved frames by S16Enc. -/
theorem f2s16EncodesEverySample : Obligations.F2s16EncodesEverySample := by
  intro s hidle hacc hund
  obtain ⟨t, m, hexec, hbusy, hend, hsamples, hframe⟩ := exec_convertFrames convertsFrames_f2s16 hidle hacc hund
  exact ⟨t, m, hexec, hbusy, hend, forall_interleaved hsamples, hframe⟩

/-- Settles O31: P2S16 is the converter of planar frames to interleaved ones by S16Enc. -/
theorem p2s16InterleavesAndEncodes : Obligations.P2s16InterleavesAndEncodes := by
  intro s hidle hacc hund
  obtain ⟨t, m, hexec, hbusy, hend, hsamples, hframe⟩ := exec_convertFrames convertsFrames_p2s16 hidle hacc hund
  refine ⟨t, m, hexec, hbusy, hend, fun i hi => ⟨?_, ?_⟩, hframe⟩
  · rw [← elemAddr_left s.args.out[0] 2 i]
    exact hsamples i hi 0
  · rw [← elemAddr_right s.args.out[0] 2 i]
    exact hsamples i hi 1

/-- Settles O32: S162F is the converter of interleaved frames by S16Dec. -/
theorem s162fDecodesEverySample : Obligations.S162fDecodesEverySample := by
  intro s hidle hacc hund
  obtain ⟨t, m, hexec, hbusy, hend, hsamples, hframe⟩ := exec_convertFrames convertsFrames_s162f hidle hacc hund
  exact ⟨t, m, hexec, hbusy, hend, forall_interleaved hsamples, hframe⟩

/-- Settles O33: ILV is the converter of planar frames to interleaved ones by the identity. -/
theorem ilvInterleavesBitExactly : Obligations.IlvInterleavesBitExactly := by
  intro s hidle hacc hund
  obtain ⟨t, m, hexec, hbusy, hend, hsamples, hframe⟩ := exec_convertFrames convertsFrames_ilv hidle hacc hund
  refine ⟨t, m, hexec, hbusy, hend, fun i hi => ⟨?_, ?_⟩, hframe⟩
  · rw [← elemAddr_left s.args.out[0] 4 i]
    exact hsamples i hi 0
  · rw [← elemAddr_right s.args.out[0] 4 i]
    exact hsamples i hi 1

/-- Settles O34: DILV is the converter of interleaved frames to planar ones by the identity. -/
theorem dilvSplitsBitExactly : Obligations.DilvSplitsBitExactly := by
  intro s hidle hacc hund
  obtain ⟨t, m, hexec, hbusy, hend, hsamples, hframe⟩ := exec_convertFrames convertsFrames_dilv hidle hacc hund
  refine ⟨t, m, hexec, hbusy, hend, fun i hi => ⟨?_, ?_⟩, hframe⟩
  · rw [← elemAddr_left s.args.inp[0] 4 i]
    exact hsamples i hi 0
  · rw [← elemAddr_right s.args.inp[0] 4 i]
    exact hsamples i hi 1

end Sys2Proof.Proofs
end

section
/-! SUPPORT. Two machines that hold different sample data (R146, R150): they take the same turns, and stay alike in all that
is not sample data. -/

namespace Sys2Proof.Machine

/-! ### Machines that differ in sample data -/

/-- A run without what its frames compute from samples: the accumulators and the running maxima (R86, R88). -/
def Run.control (r : Run) : Run :=
  { r with acc := Vector.replicate 2 0, maxIn := Vector.replicate 8 0, maxOut := Vector.replicate 2 0 }

/-- Two states that agree on all but sample data: memory, PEAK_*, and the accumulators and maxima of the run. -/
def SameControl (s t : State) : Prop :=
  ∃ mem peakIn peakOut run, t = { s with mem := mem, peakIn := peakIn, peakOut := peakOut, run := run } ∧
    run.map Run.control = s.run.map Run.control

theorem sameControl_withMem (s : State) (m : Memory) : SameControl s { s with mem := m } := ⟨m, _, _, _, rfl, rfl⟩

/-- Runs that agree on control are one run with other sample data. -/
theorem Run.eq_of_control {r r' : Run} (h : r'.control = r.control) :
    r' = { r with acc := r'.acc, maxIn := r'.maxIn, maxOut := r'.maxOut } := by
  cases r
  cases r'
  simpa [Run.control] using h

section

variable {s t : State}

theorem SameControl.run_none (h : SameControl s t) (hrun : s.run = none) : t.run = none := by
  obtain ⟨_, _, _, run, rfl, hcontrol⟩ := h
  simpa [hrun] using hcontrol

theorem SameControl.run_some (h : SameControl s t) {r : Run} (hrun : s.run = some r) :
    ∃ acc maxIn maxOut, t.run = some { r with acc := acc, maxIn := maxIn, maxOut := maxOut } := by
  obtain ⟨_, _, _, run, rfl, hcontrol⟩ := h
  rw [hrun, Option.map_some, Option.map_eq_some_iff] at hcontrol
  obtain ⟨r', rfl, hr'⟩ := hcontrol
  exact ⟨_, _, _, congrArg some (Run.eq_of_control hr')⟩

theorem SameControl.args (h : SameControl s t) : t.args = s.args := by
  obtain ⟨_, _, _, _, rfl, -⟩ := h
  rfl

theorem SameControl.frame (h : SameControl s t) : t.run.map Run.frame = s.run.map Run.frame := by
  obtain ⟨_, _, _, run, rfl, hcontrol⟩ := h
  simpa [Function.comp_def, Run.control] using congrArg (Option.map Run.frame) hcontrol

theorem SameControl.busy (h : SameControl s t) : t.busy = s.busy := by
  obtain ⟨_, _, _, run, rfl, hcontrol⟩ := h
  simpa [State.busy] using congrArg Option.isSome hcontrol

theorem SameControl.statusWord (h : SameControl s t) : t.statusWord = s.statusWord := by
  have hbusy := h.busy
  obtain ⟨_, _, _, _, rfl, -⟩ := h
  rw [State.statusWord, hbusy, State.statusWord]

/-- SINIT and MINIT have no frames (R126). -/
theorem frameTurn_of_not_runs {r : Run} (hruns : r.instr.runs = false) (s : State) : frameTurn r s = s := by
  unfold frameTurn
  cases hinstr : r.instr with
  | sinit | minit => rfl
  | _ => simp [hinstr, Instr.runs] at hruns

/-! ### What a turn does keeps them alike -/

theorem SameControl.freeOut (h : SameControl s t) (rs : List Region) : SameControl (s.freeOut rs) (t.freeOut rs) := by
  unfold State.freeOut
  induction outSpans rs generalizing s t with
  | nil => exact h
  | cons sp sps ih =>
    obtain ⟨_, _, _, _, rfl, hcontrol⟩ := h
    exact ih ⟨_, _, _, _, rfl, hcontrol⟩

theorem SameControl.freePeaks (h : SameControl s t) : SameControl s.freePeaks t.freePeaks := by
  obtain ⟨_, _, _, _, rfl, hcontrol⟩ := h
  exact ⟨_, _, _, _, rfl, hcontrol⟩

theorem SameControl.spoilIf (h : SameControl s t) (dirty : Bool) (rs : List Region) :
    SameControl (s.spoilIf dirty rs) (t.spoilIf dirty rs) := by
  cases dirty with
  | false => exact h
  | true => exact (h.freeOut rs).freePeaks

variable {r : Run} (acc : Vector Word 2) (maxIn : Vector Word 8) (maxOut : Vector Word 2)

/-- The samples decide what a frame writes and computes; the frame index moves on whatever they are. -/
theorem SameControl.frameTurn (h : SameControl s t) :
    SameControl (frameTurn r s) (frameTurn { r with acc := acc, maxIn := maxIn, maxOut := maxOut } t) := by
  cases hruns : r.instr.runs with
  | false =>
    rwa [frameTurn_of_not_runs hruns,
      frameTurn_of_not_runs (r := { r with acc := acc, maxIn := maxIn, maxOut := maxOut }) hruns]
  | true =>
    obtain ⟨r₁, hs, hinstr₁, hframe₁, hfate₁, hdirty₁⟩ := frameTurn_run r s hruns
    obtain ⟨r₂, ht, hinstr₂, hframe₂, hfate₂, hdirty₂⟩ :=
      frameTurn_run { r with acc := acc, maxIn := maxIn, maxOut := maxOut } t hruns
    obtain ⟨_, _, _, _, rfl, -⟩ := h
    rw [hs, ht]
    refine ⟨_, _, _, some r₂, rfl, ?_⟩
    simp [Run.control, hinstr₁, hframe₁, hfate₁, hdirty₁, hinstr₂, hframe₂, hfate₂, hdirty₂]

/-- A mixer's context takes its gains from the argument registers (R101, R108). -/
theorem SameControl.completionWrites (h : SameControl s t) :
    SameControl (completionWrites r s) (completionWrites { r with acc := acc, maxIn := maxIn, maxOut := maxOut } t) := by
  obtain ⟨instr, _⟩ := r
  cases instr with
  | smix | mmix =>
    obtain ⟨_, _, _, _, rfl, hcontrol⟩ := h
    exact ⟨_, _, _, _, rfl, hcontrol⟩
  | _ => exact h

theorem SameControl.completeRun (h : SameControl s t) :
    SameControl (completeRun r s) (completeRun { r with acc := acc, maxIn := maxIn, maxOut := maxOut } t) := by
  obtain ⟨_, _, _, _, heq, -⟩ := (h.completionWrites (r := r) acc maxIn maxOut).spoilIf r.dirty (s.runRegions r)
  simp only [Machine.completeRun, State.runRegions, h.args] at heq ⊢
  rw [heq]
  exact ⟨_, _, _, _, rfl, rfl⟩

theorem SameControl.abortRun (h : SameControl s t) (addr : Word) :
    SameControl (abortRun addr r s) (abortRun addr { r with acc := acc, maxIn := maxIn, maxOut := maxOut } t) := by
  obtain ⟨_, _, _, _, heq, -⟩ := h.freeOut (s.runRegions r)
  simp only [Machine.abortRun, State.runRegions, h.args] at heq ⊢
  rw [heq]
  cases r.dirty <;> exact ⟨_, _, _, _, rfl, rfl⟩

end

/-- Which turn the engine takes depends on the fate of the run, its frame index and COUNT. -/
theorem SameControl.engineTurn {s t : State} (h : SameControl s t) : SameControl (engineTurn s) (engineTurn t) := by
  cases hrun : s.run with
  | none => rwa [engineTurn_idle hrun, engineTurn_idle (h.run_none hrun)]
  | some r =>
    obtain ⟨acc, maxIn, maxOut, hrun'⟩ := h.run_some hrun
    cases hfate : r.fate with
    | noMargin => rwa [engineTurn_of_stuck hrun (.inl hfate), engineTurn_of_stuck hrun' (.inl hfate)]
    | noResponse => rwa [engineTurn_of_stuck hrun (.inr hfate), engineTurn_of_stuck hrun' (.inr hfate)]
    | busError addr =>
      rw [engineTurn_of_busError hrun hfate, engineTurn_of_busError hrun' hfate]
      exact h.abortRun acc maxIn maxOut addr
    | completes =>
      rcases Nat.lt_or_ge r.frame s.args.n with hlt | hle
      · rw [engineTurn_of_frame hrun hfate hlt, engineTurn_of_frame hrun' hfate (h.args ▸ hlt)]
        exact h.frameTurn acc maxIn maxOut
      · rw [engineTurn_of_completion hrun hfate hle, engineTurn_of_completion hrun' hfate (h.args ▸ hle)]
        exact h.completeRun acc maxIn maxOut

theorem SameControl.engineTurns {s t : State} (h : SameControl s t) (k : Nat) :
    SameControl (engineTurns k s) (engineTurns k t) := by
  induction k generalizing s t with
  | zero => exact h
  | succ k ih => exact ih h.engineTurn

/-! ### A command's meaning reads no memory -/

theorem acceptance_withMem (i : Instr) (s : State) (m : Memory) :
    acceptance i { s with mem := m } = { acceptance i s with mem := m } := by
  cases i <;> rfl

/-- A command answers a next state, and the same one whatever memory holds (R123 to R127). -/
theorem exec_withMem (i : Instr) (s : State) (m : Memory) :
    ∃ t, exec i s = .next t ∧ exec i { s with mem := m } = .next { t with mem := m } := by
  have hchecks : checksOf i { s with mem := m } = checksOf i s := by cases i <;> rfl
  simp only [exec_eq_submit, submit, hchecks, acceptance_withMem]
  cases (checksOf i s).firstError with
  | none => exact ⟨_, rfl, rfl⟩
  | some e => exact ⟨_, rfl, rfl⟩

end Sys2Proof.Machine

namespace Sys2Proof.Proofs

open Sys2Proof.Machine

/-- Settles O50: the two runs start alike (`exec_withMem`), and every turn keeps them alike in all but sample data
(`SameControl.engineTurns`). -/
theorem controlIgnoresSampleData : Obligations.ControlIgnoresSampleData := by
  intro i s m _
  obtain ⟨t, hexec, hexec'⟩ := exec_withMem i s m
  refine ⟨t, _, hexec, hexec', fun k => ?_⟩
  have hsame := (sameControl_withMem t m).engineTurns k
  have hframe := hsame.frame.symm
  have hstatus := hsame.statusWord.symm
  obtain ⟨_, _, _, _, heq, -⟩ := hsame
  refine ⟨hframe, hstatus, ?_⟩
  rw [heq]
  exact ⟨rfl, rfl, rfl, rfl, rfl, rfl⟩

end Sys2Proof.Proofs
end

section
/-! SUPPORT. Acceptance, rejection by the first three checks of R123, the end of a running command and the irq level, and
the statements about them (60_exceptions.md). -/

namespace Sys2Proof.Machine

/-! ### The first checks in their order -/

/-- The first two checks, of the row and of CTX, are the well-formedness of the command in the configuration. -/
theorem wellFormed_eq_checksOf (i : Instr) (s : State) :
    i.wellFormed s.cfg = ((checksOf i s).present && (checksOf i s).ctxOk) := by
  cases i with
  | ilv | dilv => exact (Bool.and_true _).symm
  | _ => rfl

/-- The third check is the COUNT range of R121. -/
theorem checksOf_countOk (i : Instr) (s : State) : (checksOf i s).countOk = countLegal i s.args.n := by
  cases i with
  | sinit | minit => rfl
  | mmix => simp [checksOf, mmixChecks, countLegal, Args.countIn, Bool.and_assoc]
  | _ => exact (Bool.decide_and ..).symm

/-- A command that is present and names a context the configuration lacks fails the second check (R121, R123). -/
theorem exec_of_missingContext {i : Instr} {s : State} (hpresent : (checksOf i s).present = true)
    (hctx : (checksOf i s).ctxOk = false) : exec i s = .next (s.reject .ctx 0) := by
  have hfirst : (checksOf i s).firstError = some (.ctx, 0) := by simp [Checks.firstError, hpresent, hctx]
  rw [exec_eq_submit, submit, hfirst]

/-- A well-formed command whose COUNT is out of range fails the third check (R121, R123). -/
theorem exec_of_illegalCount {i : Instr} {s : State} (hwf : i.wellFormed s.cfg = true)
    (hcount : countLegal i s.args.n = false) : exec i s = .next (s.reject .count 0) := by
  rw [wellFormed_eq_checksOf, Bool.and_eq_true] at hwf
  obtain ⟨hpresent, hctx⟩ := hwf
  have hfirst : (checksOf i s).firstError = some (.count, 0) := by
    simp [Checks.firstError, hpresent, hctx, checksOf_countOk, hcount]
  rw [exec_eq_submit, submit, hfirst]

/-! ### Acceptance without a run -/

/-- SINIT and MINIT complete in their acceptance: contexts aside, only BUSY and DONE change (R126). -/
theorem acceptance_of_not_runs {i : Instr} (s : State) (h : i.runs = false) :
    ∃ ss ms, acceptance i s = { s with ss := ss, ms := ms, run := none, done := true } := by
  cases i with
  | sinit ctx => exact ⟨_, _, rfl⟩
  | minit ctx => exact ⟨_, _, rfl⟩
  | _ => cases h

/-! ### The flags as bits of their words: CTRL and STATUS end in flags, each put behind the bits before it -/

theorem getLsbD_zero_ctrlWord (s : State) : s.ctrlWord.getLsbD 0 = s.irqEn := BitVec.getLsbD_concat_zero

theorem getLsbD_one_statusWord (s : State) : s.statusWord.getLsbD 1 = s.done :=
  BitVec.getLsbD_concat_succ.trans BitVec.getLsbD_concat_zero

theorem getLsbD_two_statusWord (s : State) : s.statusWord.getLsbD 2 = s.err :=
  BitVec.getLsbD_concat_succ.trans (BitVec.getLsbD_concat_succ.trans BitVec.getLsbD_concat_zero)

end Sys2Proof.Machine

namespace Sys2Proof.Proofs

open Sys2Proof.Machine

/-- Settles O14: the two words the host reads hold the three flags in these bits. -/
theorem irqFollowsDoneAndErr : Obligations.IrqFollowsDoneAndErr := by
  intro s
  simp only [readReg, getLsbD_zero_ctrlWord, getLsbD_one_statusWord, getLsbD_two_statusWord]
  rfl

/-- Settles O17: an accepted command starts (`exec_starts`) or completes at once (`acceptance_of_not_runs`); any other is
rejected with a code of the checks (`exec_of_not_accepted`). -/
theorem commandIsAcceptedOrPreciselyRejected : Obligations.CommandIsAcceptedOrPreciselyRejected := by
  refine ⟨fun s code addr => ⟨_, rfl⟩, fun i s => ⟨fun hacc => ?_, fun hrej => ?_⟩⟩
  · cases hruns : i.runs with
    | true =>
      obtain ⟨breaches, r, hexec, -⟩ := exec_starts hruns hacc
      exact ⟨_, hexec, fun _ => rfl, nofun, rfl, rfl, rfl⟩
    | false =>
      obtain ⟨ss, ms, hdone⟩ := acceptance_of_not_runs s hruns
      exact ⟨_, (exec_of_accepted hacc).trans (congrArg _ hdone), nofun, fun _ => ⟨rfl, rfl⟩, rfl, rfl, rfl⟩
  · obtain ⟨code, addr, hnone, hbus, hexec⟩ := exec_of_not_accepted hrej
    exact ⟨code, addr, _, hnone, hbus, hexec⟩

/-- Settles O18: the four commands are always present, so that the check of CTX decides. -/
theorem missingContextIsErrCtx : Obligations.MissingContextIsErrCtx := by
  intro s ctx fx
  constructor
  · intro hlacks
    have hctx : decide (ctx.toNat < s.cfg.stereoCtx) = false := decide_eq_false hlacks.not_gt
    exact ⟨exec_of_missingContext rfl hctx, exec_of_missingContext rfl hctx⟩
  · intro hlacks
    have hctx : decide (ctx.toNat < s.cfg.monoCtx) = false := decide_eq_false hlacks.not_gt
    exact ⟨exec_of_missingContext rfl hctx, exec_of_missingContext rfl hctx⟩

/-- Settles O19: each range is the negation of `countLegal`, and the command is well-formed (`exec_of_illegalCount`). -/
theorem countOutOfRangeIsErrCount : Obligations.CountOutOfRangeIsErrCount := by
  refine fun s ctx fx => ⟨fun hctx hn => ?smix, fun hctx hn => ?mmix, fun hn => ?fixed, fun hn => ?sixteenBit,
    fun hoption hn => ?layout⟩ <;>
    rw [← Args.n] at hn
  case smix => exact exec_of_illegalCount (decide_eq_true hctx) (decide_eq_false (by omega))
  case mmix => exact exec_of_illegalCount (decide_eq_true hctx) (decide_eq_false (by omega))
  case fixed =>
    have hcount : decide (1 ≤ s.args.n ∧ s.args.n ≤ 4096) = false := decide_eq_false (by omega)
    exact ⟨exec_of_illegalCount rfl hcount, exec_of_illegalCount rfl hcount⟩
  case sixteenBit =>
    have hcount : decide (4 ≤ s.args.n ∧ s.args.n ≤ 2048) = false := decide_eq_false (by omega)
    exact ⟨exec_of_illegalCount rfl hcount, exec_of_illegalCount rfl hcount, exec_of_illegalCount rfl hcount⟩
  case layout =>
    have hcount : decide (1 ≤ s.args.n ∧ s.args.n ≤ 2048) = false := decide_eq_false (by omega)
    exact ⟨exec_of_illegalCount hoption hcount, exec_of_illegalCount hoption hcount⟩

/-- Settles O37: by the fate of the command, its first turn is an abort and the others do nothing, or its turns are its
frames and its completion (`exec_completes`). -/
theorem acceptedCommandEnds : Obligations.AcceptedCommandEnds := by
  intro i s hruns hacc herr hmargin hresponse
  obtain ⟨breaches, r, hexec, -, hrfate, -⟩ := exec_starts hruns hacc
  refine ⟨_, hexec, rfl, ?_⟩
  dsimp only
  rcases fateOf_cases s.platform (regionsOf i s.args) s.draws with
    ⟨-, hfate⟩ | ⟨hmargins, hanswered, -⟩ | ⟨f, hf, -, hfate⟩
  · exact absurd hfate hmargin
  · obtain ⟨t, m, r', breaches', hexec', -, hend⟩ := exec_completes hruns hacc hanswered hmargins
    cases hexec.symm.trans hexec'
    rw [hend, completeRun_eq]
    simp [herr, hanswered]
  · have hanswered : f.kind ≠ .silent := fun hsilent => hresponse (by rw [hfate, if_pos hsilent])
    rw [if_neg hanswered] at hfate
    have hfail : failures s.platform (regionsOf i s.args) ≠ [] := List.ne_nil_of_mem (mem_firstFailures.1 hf).1
    rw [engineTurns_succ, engineTurn_of_busError rfl (hrfate.trans hfate), abortRun_eq, engineTurns_idle rfl]
    exact ⟨rfl, rfl, ⟨fun _ => hfail, fun _ => rfl⟩, fun _ => rfl⟩

end Sys2Proof.Proofs
end

section
/-! SUPPORT. The reset of the block by its input and by SRESET (70_reset_and_hazards.md R140, R141), the engine's turn with
no input pending (R142, R146), and the statements about them. -/

namespace Sys2Proof.Machine

/-! ### A reset by the host and by the reset input -/

/-- Making "out" regions free neither reads nor changes the host's last answer. -/
theorem freeOut_setReply (s : State) (reply : Reply) (rs : List Region) :
    ({ s with reply := reply }).freeOut rs = { s.freeOut rs with reply := reply } := by
  unfold State.freeOut
  induction outSpans rs generalizing s with
  | nil => rfl
  | cons sp sps ih => exact ih (s.freeSpan sp)

/-- A reset keeps the host's last answer and does not depend on it. -/
theorem resetBlock_setReply (s : State) (reply : Reply) :
    resetBlock { s with reply := reply } = { resetBlock s with reply := reply } := by
  have habandoned : ({ s with reply := reply }).abandoned = s.abandoned := rfl
  simp only [resetBlock, habandoned, freeOut_setReply]

/-- A CTRL write with SRESET is a reset, whatever bit 0 of the same write (R26, R141). -/
theorem serve_write_sreset (s : State) {v : Word} (hv : v.getLsbD 1 = true) :
    serve s (.write (windowAddr s.cfg 0x008) .word v) = .next { resetBlock s with reply := .ok } := by
  have hw : serve s (.write (windowAddr s.cfg 0x008) .word v) = .next (writeCtrl { s with reply := .ok } v) :=
    serve_write_window s rfl v
  rw [hw, writeCtrl, if_pos hv, resetBlock_setReply]

/-! ### The engine with no input pending -/

/-- A RUNNING engine that is not stuck takes a turn (R146). -/
theorem enginePending_of_not_stuck {s : State} {r : Run} (hrun : s.run = some r) (hmargin : r.fate ≠ .noMargin)
    (hresponse : r.fate ≠ .noResponse) : enginePending s = .next (engineTurn s) := by
  simp only [enginePending, hrun]
  cases hfate : r.fate with
  | noMargin => exact absurd hfate hmargin
  | noResponse => exact absurd hfate hresponse
  | busError | completes => rfl

end Sys2Proof.Machine

namespace Sys2Proof.Proofs

open Sys2Proof.Machine

/-- Settles O3: an input is served by the definition of a step; with none, an IDLE machine waits and a RUNNING engine
moves (`enginePending_of_not_stuck`). -/
theorem stepServesOldestInput : Obligations.StepServesOldestInput := by
  refine ⟨fun s e es hevents => ?_, fun s hevents hidle => ?_, fun s r hevents hrun hmargin hresponse => ?_⟩ <;>
    rw [step, hevents]
  · rw [enginePending, hidle]
  · exact enginePending_of_not_stuck hrun hmargin hresponse

/-- Settles O16: SRESET is the reset of the reset input but for the reply (`serve_write_sreset`); memory is kept where
nothing is abandoned. -/
theorem resetRestoresTheTable : Obligations.ResetRestoresTheTable := by
  intro s
  refine ⟨(resetBlock s).mem, (resetBlock s).draws, (resetBlock s).unseen, rfl, fun v hv => ?softReset,
    fun hidle => ?idle, fun r hrun => ?running⟩
  case softReset => exact serve_write_sreset s hv
  case idle => rw [resetBlock_idle hidle]; exact ⟨rfl, rfl⟩
  case running =>
    rw [← State.abandoned_running hrun]
    exact ⟨rfl, fun _ => readByte_resetBlock_outside⟩

end Sys2Proof.Proofs
end
